-- ==== Sys2Proof/Word.lean ====
section
/-! DEFINITION. Word.lean: the bit-vector types of CORE (00_scope.md rules R10, R13). -/

namespace Sys2Proof

/-- "word = 32 bits" (R10): a transmission word, a register value on the host port, a command word. -/
abbrev Word := BitVec 32

/-- A character of a text (R15) or one byte of the output stream (R62). -/
abbrev Byte := BitVec 8

/-- A 4-bit code of the numeric table (R150). -/
abbrev Nibble := BitVec 4

end Sys2Proof
end

