-- ==== Sys2Proof/Config.lean ====
section
/-! DEFINITION. Config.lean: the fixed wire constants (00_scope.md R9), the fixed capacities (R11), and
the build parameters the spec leaves open (R11, R12): OUT_CAP, NUMTAB and PAD_STRICT. -/

namespace Sys2Proof.Config

/-- SYNC, the "batch sync word" (R9). -/
def sync : Word := 0x7CD215D8#32

/-- IDLE, the "padding and end-of-message marker" (R9). -/
def idle : Word := 0x7A89C197#32

/-- PRE, the preamble word (R9). -/
def pre : Word := 0xAAAAAAAA#32

/-- PRE_N: the preamble word is "repeated PRE_N = 18 times" (R9). -/
def preN : Nat := 18

/-- G = 0b11101101001 = 0x769, the CRC generator, an "11-bit, degree-10 polynomial" (R9, R120). -/
def generator : BitVec 11 := 0b11101101001#11

/-- BATCH: "words per batch, one sync word before each batch" (R9). -/
def batchWords : Nat := 16

/-- PAYLOAD_BITS: "payload bits per message word, both packers" (R9). -/
def payloadBits : Nat := 20

/-- ALPHA_BITS: "bits per alphanumeric character" (R9). -/
def alphaBits : Nat := 7

/-- NUM_BITS: "bits per numeric character" (R9). -/
def numBits : Nat := 4

/-- MAX_TEXT: the longest message text a buffer holds, in characters (R11; log 5). -/
def maxText : Nat := 65535

/-- MAX_ATEXT: the longest address text, in characters (R11; log 5). -/
def maxAText : Nat := 32

/-- MAX_MSGS: the deepest message queue (R11; log 5). -/
def maxMsgs : Nat := 256

/-- The rows DT0 to T_CLOSE of the numeric table (43_packers.md R150): the classes of characters that
share an entry. The row "every other code" is no class; it is the fallback. -/
inductive NumClass where
  | dt0 | dt1 | dt2 | dt3 | dt4 | dt5 | dt6 | dt7 | dt8 | dt9
  | space | letterU | hyphen | openBracket | closeBracket
  deriving DecidableEq, Repr

/-- NUMTAB, the numeric lookup table: one entry a row of R150. -/
structure NumTab where
  dt0 : Nibble
  dt1 : Nibble
  dt2 : Nibble
  dt3 : Nibble
  dt4 : Nibble
  dt5 : Nibble
  dt6 : Nibble
  dt7 : Nibble
  dt8 : Nibble
  dt9 : Nibble
  tSpace : Nibble
  tU : Nibble
  tHyphen : Nibble
  tOpen : Nibble
  tClose : Nibble
  tFallback : Nibble
  deriving DecidableEq, Repr

/-- PRESUMED (log 3): the default table of R150, which the spec marks as general knowledge. -/
def defaultNumTab : NumTab where
  dt0 := 0x0#4
  dt1 := 0x8#4
  dt2 := 0x4#4
  dt3 := 0xC#4
  dt4 := 0x2#4
  dt5 := 0xA#4
  dt6 := 0x6#4
  dt7 := 0xE#4
  dt8 := 0x1#4
  dt9 := 0x9#4
  tSpace := 0x3#4
  tU := 0xD#4
  tHyphen := 0xB#4
  tOpen := 0xF#4
  tClose := 0x7#4
  tFallback := 0x5#4

/-- The constraints R150 puts on NUMTAB: DT5 = 0xA, and DT0..DT9 "is not the identity". -/
abbrev NumTab.Valid (t : NumTab) : Prop :=
  t.dt5 = 0xA#4 ∧
  [t.dt0, t.dt1, t.dt2, t.dt3, t.dt4, t.dt5, t.dt6, t.dt7, t.dt8, t.dt9] ≠
    [0#4, 1#4, 2#4, 3#4, 4#4, 5#4, 6#4, 7#4, 8#4, 9#4]

/-- The build parameters that are arguments of the model (R11, R12): fixed when the block is built, and
written by no transaction (R323). DESIGN CHOICE (log 1): a field of `State` carries them. -/
structure Params where
  /-- OUT_CAP, the capacity of OUTW in words (OPEN in R11). -/
  outCap : Nat
  /-- NUMTAB (OPEN in R11). -/
  numTab : NumTab
  /-- PAD_STRICT (R11, 90_conflicts.md C3). -/
  padStrict : Bool
  deriving DecidableEq, Repr

/-- "1 <= OUT_CAP <= 2^30" (R11), and the constraints on NUMTAB (R150). -/
abbrev Params.Valid (p : Params) : Prop :=
  1 ≤ p.outCap ∧ p.outCap ≤ 2 ^ 30 ∧ p.numTab.Valid

/-- The parameters the machine is built with in `State.reset`: PAD_STRICT's default (log 4), R150's
default table (log 3), and DESIGN CHOICE (log 2) the largest OUT_CAP the spec admits. -/
def defaultParams : Params where
  outCap := 2 ^ 30
  numTab := defaultNumTab
  padStrict := false

end Sys2Proof.Config
end

