-- ==== Sys2Proof/Syntax.lean ====
section
/-! DEFINITION. Syntax.lean: the one inductive of instructions, one constructor per row of
spec/opcode_table.json: the 15 command words (30_encoding.md R89, R91) and the 10 host transaction
kinds (R94). -/

namespace Sys2Proof

/-- An operation of CORE. A command constructor (`nop` to `clr`) is the CMD transaction that carries its
command word (R80; log 10); the others are the host transactions of R94. The fields are the selector
fields of R81 (STRICT, NUM and SUPINV single bits, OFF 4 bits, RC 8 bits) and the payloads of R94. -/
inductive Instr where
  /-- NOP, OP = 0x0 (R260). -/
  | nop
  /-- CRC, OP = 0x1 (R126). -/
  | crc
  /-- PAR, OP = 0x2 (R127). -/
  | par
  /-- CW, OP = 0x3 (R144). -/
  | cw
  /-- DIGIT, OP = 0x4 (R160). -/
  | digit (strict : Bool)
  /-- PACKA, OP = 0x5 (R161). -/
  | packa (strict : Bool) (off : BitVec 4)
  /-- PACKN, OP = 0x6 (R162). -/
  | packn (strict : Bool) (off : BitVec 4)
  /-- AOFF, OP = 0x7 (R189). -/
  | aoff
  /-- PARSE, OP = 0x8 (R190). -/
  | parse (strict : Bool)
  /-- TLEN, OP = 0x9 (R191). -/
  | tlen
  /-- NLEN, OP = 0xA (R192). -/
  | nlen
  /-- ETX, OP = 0xB (R218). -/
  | etx (num strict : Bool)
  /-- BATCH, OP = 0xC (R237). -/
  | batch (strict supinv : Bool) (rc : BitVec 8)
  /-- SER, OP = 0xD (R238). -/
  | ser (supinv : Bool)
  /-- CLR, OP = 0xE (R261). -/
  | clr
  /-- CMD, kind 0: a command word, any of the 2^32 values (R259). -/
  | cmd (word : Word)
  /-- WR, kind 1: register id and value (R251). -/
  | wr (reg : BitVec 4) (value : Word)
  /-- RD, kind 2: register id (R252). -/
  | rd (reg : BitVec 4)
  /-- LOADA, kind 3 (R253). -/
  | loada (bytes : List Byte)
  /-- LOADM, kind 4 (R254). -/
  | loadm (bytes : List Byte)
  /-- PUSH, kind 5 (R255). -/
  | push (isNumeric : Bool) (addressText messageText : List Byte)
  /-- MCLR, kind 6 (R256). -/
  | mclr
  /-- READW, kind 7 (R257). -/
  | readw
  /-- READB, kind 8 (R258). -/
  | readb
  /-- RESET, kind 9 (R320). -/
  | reset
  deriving DecidableEq, Repr

end Sys2Proof
end

