-- ==== Sys2Proof/WellFormed.lean ====
section
/-! DEFINITION. WellFormed.lean: the operand ranges spec/opcode_table.json gives a row. The bit widths of
R81 and R94 are in the types of `Instr`'s fields; what is left to check is the length of the texts
("byte sequence, length 0..MAX_ATEXT", "byte sequence, length 0..MAX_TEXT"). DESIGN CHOICE (log 12): an
instruction that fails the check still has its meaning, the TEXT_LEN refusal of R289. -/

namespace Sys2Proof

/-- An address text that fits ATXT and a queued message (R40, R37). -/
def addressTextFits (t : List Byte) : Bool := decide (t.length ≤ Config.maxAText)

/-- A message text that fits MTXT and a queued message (R41, R37). -/
def messageTextFits (t : List Byte) : Bool := decide (t.length ≤ Config.maxText)

/-- The instruction's operands lie in the ranges of its row of the opcode table. -/
def Instr.wellFormed : Instr → Bool
  | .nop => true
  | .crc => true
  | .par => true
  | .cw => true
  | .digit _ => true
  | .packa _ _ => true
  | .packn _ _ => true
  | .aoff => true
  | .parse _ => true
  | .tlen => true
  | .nlen => true
  | .etx _ _ => true
  | .batch _ _ _ => true
  | .ser _ => true
  | .clr => true
  | .cmd _ => true
  | .wr _ _ => true
  | .rd _ => true
  | .loada t => addressTextFits t
  | .loadm t => messageTextFits t
  | .push _ at' mt => addressTextFits at' && messageTextFits mt
  | .mclr => true
  | .readw => true
  | .readb => true
  | .reset => true

end Sys2Proof
end

