-- ==== Sys2Proof/Decode.lean ====
section
/-! DEFINITION. Decode.lean: the two encodings of 30_encoding.md, the command word (R81 to R92) and the
host transaction record (R94), each with a total decoder that rejects by name and an encoder. -/

namespace Sys2Proof

/-- A host transaction record (R94): the 4-bit kind and the payload fields of the kinds, named as
opcode_table.json names them. DESIGN CHOICE (log 8): the spec lays out no bits but the kind's, so each
payload is a field of its own, and a kind reads only the fields R94 gives it. -/
structure HostRecord where
  kind : BitVec 4
  /-- CMD: the command word. -/
  word : Word
  /-- WR, RD: the register id. -/
  reg : BitVec 4
  /-- WR: the value. -/
  value : Word
  /-- LOADA, LOADM: the byte sequence. -/
  bytes : List Byte
  /-- PUSH: the message. -/
  isNumeric : Bool
  addressText : List Byte
  messageText : List Byte
  deriving DecidableEq, Repr

/-- A record of kind `k` whose payload is all zero and empty. -/
def blankRecord (k : BitVec 4) : HostRecord where
  kind := k
  word := 0#32
  reg := 0#4
  value := 0#32
  bytes := []
  isNumeric := false
  addressText := []
  messageText := []

/-- Why an encoding has no instruction: the four causes of ILLEGAL_OP in R284. -/
inductive DecodeReject where
  /-- A command word with OP = 0xF (R92). -/
  | reservedOp
  /-- A command word with bit 7, a bit of 15:12 or a bit of 31:24 set (R88). -/
  | reservedBit
  /-- A command word with a bit set in a field its operation does not use (R88, R89). -/
  | unusedField
  /-- A host record of kind 10..15 (R250). -/
  | reservedKind
  deriving DecidableEq, Repr

/-! The fields of a command word (R81). -/

def opField (c : Word) : BitVec 4 := c.extractLsb' 0 4
def numField (c : Word) : Bool := c.getLsbD 4
def strictField (c : Word) : Bool := c.getLsbD 5
def supinvField (c : Word) : Bool := c.getLsbD 6
def offField (c : Word) : BitVec 4 := c.extractLsb' 8 4
def rcField (c : Word) : BitVec 8 := c.extractLsb' 16 8

/-- Bits 7, 15:12 and 31:24, which "must be 0" (R88). -/
def reservedMask : Word := 0xFF00F080#32

/-- A row of R89: the words whose bits under `mask` are `value`, and the instruction such a word is,
its selector fields read from the word. -/
structure CommandRow where
  mask : Word
  value : Word
  build : Word → Instr

/-- The 15 rows of R89, mask and match as the spec writes them. -/
def commandRows : List CommandRow :=
  [⟨0xFFFFFFFF#32, 0x00000000#32, fun _ => .nop⟩,
   ⟨0xFFFFFFFF#32, 0x00000001#32, fun _ => .crc⟩,
   ⟨0xFFFFFFFF#32, 0x00000002#32, fun _ => .par⟩,
   ⟨0xFFFFFFFF#32, 0x00000003#32, fun _ => .cw⟩,
   ⟨0xFFFFFFDF#32, 0x00000004#32, fun c => .digit (strictField c)⟩,
   ⟨0xFFFFF0DF#32, 0x00000005#32, fun c => .packa (strictField c) (offField c)⟩,
   ⟨0xFFFFF0DF#32, 0x00000006#32, fun c => .packn (strictField c) (offField c)⟩,
   ⟨0xFFFFFFFF#32, 0x00000007#32, fun _ => .aoff⟩,
   ⟨0xFFFFFFDF#32, 0x00000008#32, fun c => .parse (strictField c)⟩,
   ⟨0xFFFFFFFF#32, 0x00000009#32, fun _ => .tlen⟩,
   ⟨0xFFFFFFFF#32, 0x0000000A#32, fun _ => .nlen⟩,
   ⟨0xFFFFFFCF#32, 0x0000000B#32, fun c => .etx (numField c) (strictField c)⟩,
   ⟨0xFF00FF9F#32, 0x0000000C#32, fun c => .batch (strictField c) (supinvField c) (rcField c)⟩,
   ⟨0xFFFFFFBF#32, 0x0000000D#32, fun c => .ser (supinvField c)⟩,
   ⟨0xFFFFFFFF#32, 0x0000000E#32, fun _ => .clr⟩]

/-- "(c & mask) == match" (R90). -/
def CommandRow.accepts (r : CommandRow) (c : Word) : Bool := c &&& r.mask == r.value

/-- Which cause of R284 makes a word that no row accepts illegal, in R284's order. -/
def commandReject (c : Word) : DecodeReject :=
  if opField c = 0xF#4 then .reservedOp
  else if c &&& reservedMask = 0#32 then .unusedField
  else .reservedBit

/-- `decode(c)` of R90, "total on all 2^32 values". -/
def decodeCommand (c : Word) : Except DecodeReject Instr :=
  match commandRows.find? (fun r => r.accepts c) with
  | some r => .ok (r.build c)
  | none => .error (commandReject c)

/-- The transaction a host record carries (R94). Kinds 10 to 15 are reserved (R250). -/
def decodeRecord (r : HostRecord) : Except DecodeReject Instr :=
  match r.kind.toNat with
  | 0 => .ok (.cmd r.word)
  | 1 => .ok (.wr r.reg r.value)
  | 2 => .ok (.rd r.reg)
  | 3 => .ok (.loada r.bytes)
  | 4 => .ok (.loadm r.bytes)
  | 5 => .ok (.push r.isNumeric r.addressText r.messageText)
  | 6 => .ok .mclr
  | 7 => .ok .readw
  | 8 => .ok .readb
  | 9 => .ok .reset
  | _ => .error .reservedKind

/-- What an instruction is encoded as: a command word or a host record (the formats CMD32 and HOST_KIND
of opcode_table.json). -/
inductive Encoded where
  | command (w : Word)
  | record (r : HostRecord)
  deriving DecidableEq, Repr

/-- The decoder over both formats. -/
def decode : Encoded → Except DecodeReject Instr
  | .command w => decodeCommand w
  | .record r => decodeRecord r

/-! The encoder. -/

/-- A selector bit as a word. -/
def bitWord (b : Bool) : Word := (BitVec.ofBool b).setWidth 32

/-- "The encoding is `OP | NUM<<4 | STRICT<<5 | SUPINV<<6 | OFF<<8 | RC<<16`" (R101). -/
def assembleWord (op : BitVec 4) (num strict supinv : Bool) (off : BitVec 4) (rc : BitVec 8) : Word :=
  op.setWidth 32 ||| bitWord num <<< 4 ||| bitWord strict <<< 5 ||| bitWord supinv <<< 6 |||
    off.setWidth 32 <<< 8 ||| rc.setWidth 32 <<< 16

/-- The CMD record that carries a command word (R80, R94). -/
def commandRecord (w : Word) : HostRecord := { blankRecord 0#4 with word := w }

/-- The encoder: a command as its word (opcodes of R91), a host transaction as its record (R94). -/
def encode : Instr → Encoded
  | .nop => .command (assembleWord 0x0#4 false false false 0#4 0#8)
  | .crc => .command (assembleWord 0x1#4 false false false 0#4 0#8)
  | .par => .command (assembleWord 0x2#4 false false false 0#4 0#8)
  | .cw => .command (assembleWord 0x3#4 false false false 0#4 0#8)
  | .digit strict => .command (assembleWord 0x4#4 false strict false 0#4 0#8)
  | .packa strict off => .command (assembleWord 0x5#4 false strict false off 0#8)
  | .packn strict off => .command (assembleWord 0x6#4 false strict false off 0#8)
  | .aoff => .command (assembleWord 0x7#4 false false false 0#4 0#8)
  | .parse strict => .command (assembleWord 0x8#4 false strict false 0#4 0#8)
  | .tlen => .command (assembleWord 0x9#4 false false false 0#4 0#8)
  | .nlen => .command (assembleWord 0xA#4 false false false 0#4 0#8)
  | .etx num strict => .command (assembleWord 0xB#4 num strict false 0#4 0#8)
  | .batch strict supinv rc => .command (assembleWord 0xC#4 false strict supinv 0#4 rc)
  | .ser supinv => .command (assembleWord 0xD#4 false false supinv 0#4 0#8)
  | .clr => .command (assembleWord 0xE#4 false false false 0#4 0#8)
  | .cmd w => .record (commandRecord w)
  | .wr reg v => .record { blankRecord 1#4 with reg := reg, value := v }
  | .rd reg => .record { blankRecord 2#4 with reg := reg }
  | .loada t => .record { blankRecord 3#4 with bytes := t }
  | .loadm t => .record { blankRecord 4#4 with bytes := t }
  | .push n at' mt =>
    .record { blankRecord 5#4 with isNumeric := n, addressText := at', messageText := mt }
  | .mclr => .record (blankRecord 6#4)
  | .readw => .record (blankRecord 7#4)
  | .readb => .record (blankRecord 8#4)
  | .reset => .record (blankRecord 9#4)

/-- The command word of a command; a host transaction has none. -/
def Instr.commandWord (i : Instr) : Option Word :=
  match encode i with
  | .command w => some w
  | .record _ => none

/-- The host record that delivers an instruction to the port: a command travels in a CMD record (R80). -/
def Instr.toRecord (i : Instr) : HostRecord :=
  match encode i with
  | .command w => commandRecord w
  | .record r => r

/-! The opcode table's numbering (log 9): a row of up to 8 bits is a host kind, its 4-bit kind field in
bits 3:0 and every payload bit 0; a longer row is a command word. -/

/-- The record the host's table word stands for. -/
def tableRecord (nbits w : Nat) : HostRecord :=
  if nbits ≤ 8 then blankRecord (BitVec.ofNat 4 w)
  else commandRecord (BitVec.ofNat 32 w)

/-- The instruction the decoder reads from a table word. -/
def decodeTableWord (nbits w : Nat) : Option Instr :=
  (if nbits ≤ 8 then decodeRecord (tableRecord nbits w) else decodeCommand (BitVec.ofNat 32 w)).toOption

end Sys2Proof
end

