-- ==== Sys2Proof/Machine/State.lean ====
section
/-! DEFINITION. State.lean: everything the spec gives CORE (10_state.md R21 to R41), its reset values
(R49), the fault codes (60_exceptions.md R280), and the reasons a step could stop (none). -/

namespace Sys2Proof.Machine

open Sys2Proof.Config (Params)

/-- One record of MSGQ: the `(isNumeric, addressText, messageText)` of R37. -/
structure Message where
  isNumeric : Bool
  addressText : List Byte
  messageText : List Byte
  deriving DecidableEq, Repr

/-- What a transaction returns to the host (R94): nothing, a 32-bit value (RD), the word sequence OUTW
(READW) or the byte sequence OUTB (READB). -/
inductive Reply where
  | nothing
  | value (v : Word)
  | words (ws : List Word)
  | bytes (bs : List Byte)
  deriving DecidableEq, Repr

/-- CORE's fault codes 1 to 8 (R280). Raising one is a NEXT state (R281, R293), not a stop of the machine. -/
inductive FaultCode where
  | illegalOp
  | addrSyntax
  | addrRange
  | emptyList
  | badChar
  | textLen
  | overflow
  | badReg
  deriving DecidableEq, Repr

/-- The state of one CORE block. -/
structure State where
  /-- DATA (R22). -/
  data : BitVec 21
  /-- PX (R23). -/
  px : BitVec 32
  /-- ADDR (R24). -/
  addr : BitVec 21
  /-- FC (R25). -/
  fc : BitVec 2
  /-- RIDX (R26). -/
  ridx : BitVec 32
  /-- NCH (R27). -/
  nch : BitVec 16
  /-- CHAR (R28). -/
  char : BitVec 8
  /-- RES (R29). -/
  res : BitVec 32
  /-- STATUS, kept whole: ERR in bits 3:0, FIDX in bits 23:8 (R30). -/
  status : BitVec 32
  /-- STICKY, kept whole: bit e for fault code e (R31). -/
  sticky : BitVec 32
  /-- LASTCMD (R32). -/
  lastcmd : BitVec 32
  /-- ATXT (R40). -/
  atxt : List Byte
  /-- MTXT (R41). -/
  mtxt : List Byte
  /-- MSGQ, oldest first (R37). -/
  msgq : List Message
  /-- OUTW, in transmission order (R38, R61). -/
  outw : List Word
  /-- OUTB (R39). -/
  outb : List Byte
  /-- DESIGN CHOICE (log 6): the transactions the host has issued and CORE has not performed, in arrival
  order (R250). -/
  port : List HostRecord
  /-- DESIGN CHOICE (log 7): what the last transaction performed returned to the host (R94). -/
  reply : Reply
  /-- DESIGN CHOICE (log 1): the build parameters (R48, R323), which no transaction changes. -/
  params : Params
  deriving DecidableEq, Repr

/-- DEDUCED (log 11): no reason. "Every transaction completes" (R332) and a fault transfers no control
(R293), so no instruction stops the machine, and the type says so. -/
inductive Fault where
  deriving DecidableEq, Repr

/-- Why an instruction would have no meaning. -/
inductive Refusal where
  /-- An arm of `exec` without a meaning. No arm raises it; it would be safe. -/
  | notModelled (mnemonic : String)
  deriving DecidableEq, Repr

/-- The state right after power-on reset (R49, R320), no transaction pending, nothing returned yet, and
the default build parameters. -/
def State.reset : State where
  data := 0#21
  px := 0#32
  addr := 0#21
  fc := 3#2
  ridx := 0#32
  nch := 0#16
  char := 0#8
  res := 0#32
  status := 0#32
  sticky := 0#32
  lastcmd := 0#32
  atxt := []
  mtxt := []
  msgq := []
  outw := []
  outb := []
  port := []
  reply := .nothing
  params := Config.defaultParams

end Sys2Proof.Machine
end

