-- ==== Sys2Proof/Machine/Flags.lean ====
section
/-! DEFINITION. Flags.lean: the STATUS and STICKY words (10_state.md R30, R31) and the fault codes in them
(60_exceptions.md R280). CORE has no other flags (R47). -/

namespace Sys2Proof.Machine

/-- The 4-bit code of a fault (R280). -/
def FaultCode.code : FaultCode → BitVec 4
  | .illegalOp => 1#4
  | .addrSyntax => 2#4
  | .addrRange => 3#4
  | .emptyList => 4#4
  | .badChar => 5#4
  | .textLen => 6#4
  | .overflow => 7#4
  | .badReg => 8#4

/-- STATUS with the given ERR and FIDX, its other bits 0 (R30). -/
def statusWord (err : BitVec 4) (fidx : BitVec 16) : Word :=
  fidx.setWidth 32 <<< 8 ||| err.setWidth 32

/-- STATUS.ERR, bits 3:0 (R30). -/
def errField (status : Word) : BitVec 4 := status.extractLsb' 0 4

/-- STATUS.FIDX, bits 23:8 (R30). -/
def fidxField (status : Word) : BitVec 16 := status.extractLsb' 8 16

/-- STICKY's bit for a fault code (R31). -/
def stickyBit (c : FaultCode) : Word := 1#32 <<< c.code.toNat

/-- "STATUS.ERR <- 0, STATUS.FIDX <- 0" (R30). -/
def State.clearStatus (s : State) : State := { s with status := statusWord 0#4 0#16 }

/-- "STATUS.ERR <- code; STATUS.FIDX <- fidx; STICKY[code] <- 1" (R281). -/
def State.recordFault (c : FaultCode) (fidx : BitVec 16) (s : State) : State :=
  { s with status := statusWord c.code fidx, sticky := s.sticky ||| stickyBit c }

end Sys2Proof.Machine
end

