-- ==== Sys2Proof/Machine/Operands.lean ====
section
/-! DEFINITION. Operands.lean: the register-id map (10_state.md R21, R33 to R36), the one place that reads
and writes registers by id, and the character tests of strict mode (43_packers.md R152). -/

namespace Sys2Proof.Machine

open Sys2Proof.Config (NumClass NumTab)

/-- A register read by id: "zero-extended to 32 bits" (R36); OUTW_LEN and MSG_COUNT are views of their
buffers (R33, R34); ids 13, 14 and 15 read 0 (R35). -/
def readReg (reg : BitVec 4) (s : State) : Word :=
  match reg.toNat with
  | 0 => s.data.setWidth 32
  | 1 => s.px
  | 2 => s.addr.setWidth 32
  | 3 => s.fc.setWidth 32
  | 4 => s.ridx
  | 5 => s.nch.setWidth 32
  | 6 => s.char.setWidth 32
  | 7 => s.res
  | 8 => s.status
  | 9 => s.sticky
  | 10 => BitVec.ofNat 32 s.outw.length
  | 11 => s.lastcmd
  | 12 => BitVec.ofNat 32 s.msgq.length
  | _ => 0#32

/-- A register write by id: ids 0 to 6 store `v mod 2^N` (R36); the others are not written (R35). -/
def writeReg (reg : BitVec 4) (v : Word) (s : State) : Option State :=
  match reg.toNat with
  | 0 => some { s with data := v.setWidth 21 }
  | 1 => some { s with px := v }
  | 2 => some { s with addr := v.setWidth 21 }
  | 3 => some { s with fc := v.setWidth 2 }
  | 4 => some { s with ridx := v }
  | 5 => some { s with nch := v.setWidth 16 }
  | 6 => some { s with char := v.setWidth 8 }
  | _ => none

/-- The 19 characters of rows DT0 to T_CLOSE of R150, each with its row. -/
def numericAlphabet : List (Byte × NumClass) :=
  [(0x30#8, .dt0), (0x31#8, .dt1), (0x32#8, .dt2), (0x33#8, .dt3), (0x34#8, .dt4),
   (0x35#8, .dt5), (0x36#8, .dt6), (0x37#8, .dt7), (0x38#8, .dt8), (0x39#8, .dt9),
   (0x20#8, .space), (0x55#8, .letterU), (0x75#8, .letterU), (0x2D#8, .hyphen), (0x5F#8, .hyphen),
   (0x28#8, .openBracket), (0x5B#8, .openBracket), (0x29#8, .closeBracket), (0x5D#8, .closeBracket)]

/-- The row of R150 a character stands in, none for "every other code". -/
def numericClass (c : Byte) : Option NumClass := numericAlphabet.lookup c

/-- "one of the 19 codes listed in rows DT0 to T_CLOSE" (R152). -/
def numericMappable (c : Byte) : Bool := (numericClass c).isSome

/-- "alphanumeric-mappable when its code is at most 0x7F" (R152). -/
def alphaMappable (c : Byte) : Bool := decide (c.toNat ≤ 0x7F)

/-- Every character of the text passes the test of the packer that packs it (R152, R288). -/
def textMappable (num : Bool) (t : List Byte) : Bool :=
  if num then t.all numericMappable else t.all alphaMappable

/-- NUMTAB's entry of a row (R150). -/
def tabEntry (tab : NumTab) : NumClass → Nibble
  | .dt0 => tab.dt0
  | .dt1 => tab.dt1
  | .dt2 => tab.dt2
  | .dt3 => tab.dt3
  | .dt4 => tab.dt4
  | .dt5 => tab.dt5
  | .dt6 => tab.dt6
  | .dt7 => tab.dt7
  | .dt8 => tab.dt8
  | .dt9 => tab.dt9
  | .space => tab.tSpace
  | .letterU => tab.tU
  | .hyphen => tab.tHyphen
  | .openBracket => tab.tOpen
  | .closeBracket => tab.tClose

/-- `T(c)`, with T_FALLBACK for every other code (R150). -/
def tabLookup (tab : NumTab) (c : Byte) : Nibble :=
  match numericClass c with
  | some k => tabEntry tab k
  | none => tab.tFallback

/-- `rev4(n)[i] = n[3-i]` (R14). -/
def rev4 (n : Nibble) : Nibble :=
  BitVec.ofBool (n.getLsbD 0) ++ BitVec.ofBool (n.getLsbD 1) ++
    BitVec.ofBool (n.getLsbD 2) ++ BitVec.ofBool (n.getLsbD 3)

/-- `be4(x) = [x[31:24], x[23:16], x[15:8], x[7:0]]` (R62, R233). -/
def be4 (x : Word) : List Byte :=
  [x.extractLsb' 24 8, x.extractLsb' 16 8, x.extractLsb' 8 8, x.extractLsb' 0 8]

end Sys2Proof.Machine
end

