-- ==== Sys2Proof/Machine/Ops.lean ====
section
/-! DEFINITION. Ops.lean: the shared operations every meaning is made of: the writes of a CMD transaction
(47_control.md R259), raising a fault (60_exceptions.md R281) and refusing a transaction (R250), the
normal ends of a transaction, and appending to OUTW with its capacity check (R290). -/

namespace Sys2Proof.Machine

/-- The three outcomes of a step. -/
abbrev Out := Host.Outcome State Fault Refusal

/-- RES <- v. -/
def State.setRes (v : Word) (s : State) : State := { s with res := v }

/-- The value the transaction returns to the host (R94; log 7). -/
def State.setReply (r : Reply) (s : State) : State := { s with reply := r }

/-- "LASTCMD <- c" (R259). -/
def State.latchWord (c : Word) (s : State) : State := { s with lastcmd := c }

/-- The start of the CMD transaction that carries the command `i`: LASTCMD takes its word (R32, R259). -/
def beginCommand (i : Instr) (s : State) : State := s.latchWord (i.commandWord.getD 0#32)

/-- The end of a command without a fault: "STATUS.ERR <- 0; STATUS.FIDX <- 0" (R259), nothing returned. -/
def complete (s : State) : Out := .next (s.clearStatus.setReply .nothing)

/-- The end of a host transaction that is not a command and not refused: STATUS stays (R250). -/
def answer (r : Reply) (s : State) : Out := .next (s.setReply r)

/-- RAISING A FAULT (R281), CORE's whole exception entry: STATUS and STICKY are written, no control is
transferred (R293), and CORE takes the next transaction in this state (R294, its whole "return"). -/
def raise (c : FaultCode) (fidx : BitVec 16) (s : State) : Out :=
  .next ((s.recordFault c fidx).setReply .nothing)

/-- A refused transaction (R250): the writes of a fault with FIDX = 0. -/
def refuse (c : FaultCode) (s : State) : Out := raise c 0#16 s

/-- The end of a command whose result is `v`: RES <- v. -/
def completeWith (v : Word) (s : State) : Out := complete (s.setRes v)

/-- Appending a command's words to OUTW (R16, R61): OVERFLOW before anything is appended when OUTW would
exceed OUT_CAP (R290), else `Append(OUTW, ws)` and RES <- len(ws) (R161, R162, R218). -/
def appendWords (ws : List Word) (s : State) : Out :=
  if s.params.outCap < s.outw.length + ws.length then raise .overflow 0#16 s
  else completeWith (BitVec.ofNat 32 ws.length) { s with outw := s.outw ++ ws }

end Sys2Proof.Machine
end

