-- ==== Sys2Proof/Machine/AddressLength.lean ====
section
/-! DEFINITION. AddressLength.lean: the address/length calculator (44_address_length.md): the frame-slot
decoder, the address parser, the length predictor; AOFF, PARSE, TLEN, NLEN. -/

namespace Sys2Proof.Machine

/-- `addressOffset(address) = (address & 0x7) * 2` (R180). -/
def addressOffset (address : BitVec 21) : Nat := (address &&& 7#21).toNat * 2

/-- An ASCII digit, 0x30..0x39 (R183). -/
def isDigit (c : Byte) : Bool := decide (0x30 ≤ c.toNat) && decide (c.toNat ≤ 0x39)

/-- The value of a digit string, most significant digit first (R183). -/
def digitsValue (p : List Byte) : Nat := p.foldl (fun v c => v * 10 + (c.toNat - 0x30)) 0

/-- `decimal(p)` (R183): none is ADDR_SYNTAX, for an empty text or a byte that is no digit. -/
def decimal (p : List Byte) : Option Nat :=
  if p.isEmpty || !p.all isDigit then none else some (digitsValue p)

/-- A function letter 'A' to 'D', upper case only (R182). -/
def isFunctionLetter (c : Byte) : Bool := decide (0x41 ≤ c.toNat) && decide (c.toNat ≤ 0x44)

/-- The numeric part and the function code of an address text: a last letter A to D gives 0 to 3, its
absence 3 (R182). -/
def splitAddress (t : List Byte) : List Byte × BitVec 2 :=
  match t.getLast? with
  | some c => if isFunctionLetter c then (t.dropLast, BitVec.ofNat 2 (c.toNat - 0x41)) else (t, 3#2)
  | none => (t, 3#2)

/-- `parseAddress(t, strict)` (R182 to R184): ADDR_SYNTAX, then ADDR_RANGE in strict mode, else the value
mod 2^21 and the function code. -/
def parseAddress (strict : Bool) (t : List Byte) : Except FaultCode (BitVec 21 × BitVec 2) :=
  match decimal (splitAddress t).1 with
  | none => .error .addrSyntax
  | some v =>
    if strict && decide (2 ^ 21 - 1 < v) then .error .addrRange
    else .ok (BitVec.ofNat 21 v, (splitAddress t).2)

/-- `ceil(a / b) = (a + b - 1) div b` (R14). -/
def ceilDiv (a b : Nat) : Nat := (a + b - 1) / b

/-- `batches(n)` under PAD_STRICT (R187). -/
def batches (padStrict : Bool) (n : Nat) : Nat := if padStrict then n / 16 + 1 else ceilDiv n 16

/-- `msgLen(bpu, ridx, address, numChars)` (R185). -/
def msgLen (padStrict : Bool) (bpu ridx : Nat) (address : BitVec 21) (numChars : Nat) : Nat :=
  16 * batches padStrict (addressOffset address + 1 + ceilDiv (numChars * bpu) 20 + 1) +
    batches padStrict (addressOffset address + 1 + ceilDiv (numChars * bpu) 20 + 1) +
    if ridx = 0 then Config.preN else 0

/-- bitsPerUnit: "7 for text and 4 for numeric" (R185). -/
def bitsPerUnit (num : Bool) : Nat := if num then Config.numBits else Config.alphaBits

/-- The predicted length for the registers RIDX, ADDR and NCH (R191, R192), cut to RES's 32 bits (R16). -/
def predictedLength (num : Bool) (s : State) : Word :=
  BitVec.ofNat 32 (msgLen s.params.padStrict (bitsPerUnit num) s.ridx.toNat s.addr s.nch.toNat)

/-- AOFF (R189). -/
def execAoff (s : State) : Out :=
  completeWith (BitVec.ofNat 32 (addressOffset s.addr)) (beginCommand .aoff s)

/-- PARSE (R190). -/
def execParse (strict : Bool) (s : State) : Out :=
  match parseAddress strict s.atxt with
  | .error c => raise c 0#16 (beginCommand (.parse strict) s)
  | .ok (a, fc) =>
    completeWith (fc.setWidth 32 <<< 21 ||| a.setWidth 32)
      { beginCommand (.parse strict) s with addr := a, fc := fc }

/-- TLEN (R191). -/
def execTlen (s : State) : Out := completeWith (predictedLength false s) (beginCommand .tlen s)

/-- NLEN (R192). -/
def execNlen (s : State) : Out := completeWith (predictedLength true s) (beginCommand .nlen s)

end Sys2Proof.Machine
end

