-- ==== Sys2Proof/Machine/CrcParity.lean ====
section
/-! DEFINITION. CrcParity.lean: the CRC/parity engine (41_crc_parity.md): `crc`, `parity`, CRC, PAR. -/

namespace Sys2Proof.Machine

/-- One column of the long division (R121): column `col` "examines bit 30-col". -/
def crcColumn (m : BitVec 31) (col : Nat) : BitVec 31 :=
  if m.getLsbD (30 - col) then m ^^^ (Config.generator.setWidth 31 <<< (20 - col)) else m

/-- The division of a 31-bit dividend by G, over the 21 columns (R121). -/
def divide (m : BitVec 31) : BitVec 31 := (List.range 21).foldl crcColumn m

/-- `crc(data)`: the remainder of `data << 10` (R121, 90_conflicts.md C1). -/
def crc (data : BitVec 21) : BitVec 10 := (divide (data.setWidth 31 <<< 10)).setWidth 10

/-- One shift of the bit-serial form (R122), feedback taps 0x369. -/
def crcSerialStep (data : BitVec 21) (r : BitVec 10) (i : Nat) : BitVec 10 :=
  if r.getLsbD 9 ^^ data.getLsbD i then (r <<< 1) ^^^ 0x369#10 else r <<< 1

/-- `crc_serial(data)`, the equivalent form of R122: "for i in 20 downto 0". -/
def crcSerial (data : BitVec 21) : BitVec 10 :=
  (List.range 21).reverse.foldl (crcSerialStep data) 0#10

/-- `parity(x)`: the "XOR-fold of all 32 bits" (R125). -/
def parity (x : Word) : Bool := (List.range 32).foldl (fun p i => p ^^ x.getLsbD i) false

/-- CRC (R126). -/
def execCrc (s : State) : Out := completeWith ((crc s.data).setWidth 32) (beginCommand .crc s)

/-- PAR (R127). -/
def execPar (s : State) : Out := completeWith (bitWord (parity s.px)) (beginCommand .par s)

end Sys2Proof.Machine
end

