-- ==== Sys2Proof/Machine/Codeword.lean ====
section
/-! DEFINITION. Codeword.lean: the codeword assembler (42_codeword.md): `encodeCodeword`, CW. -/

namespace Sys2Proof.Machine

/-- `encodeCodeword(data)`: `(data<<10)|crc`, then its parity bit below it (R140). -/
def encodeCodeword (data : BitVec 21) : Word :=
  let v : BitVec 31 := data.setWidth 31 <<< 10 ||| (crc data).setWidth 31
  v.setWidth 32 <<< 1 ||| bitWord (parity (v.setWidth 32))

/-- The message word of a 20-bit payload: `encodeCodeword((1 << 20) | payload)` (R97). -/
def messageWord (payload : BitVec 20) : Word :=
  encodeCodeword (1#21 <<< 20 ||| payload.setWidth 21)

/-- The address word: `encodeCodeword(((address >> 3) << 2) | functionCode)` (R96, R212). -/
def addressWord (address : BitVec 21) (fc : BitVec 2) : Word :=
  encodeCodeword ((address >>> 3) <<< 2 ||| fc.setWidth 21)

/-- CW (R144). -/
def execCw (s : State) : Out := completeWith (encodeCodeword s.data) (beginCommand .cw s)

end Sys2Proof.Machine
end

