-- ==== Sys2Proof/Machine/Packers.lean ====
section
/-! DEFINITION. Packers.lean: the payload packers (43_packers.md): `encodeDigit`, the packing discipline,
the two bit sequences, DIGIT, PACKA, PACKN. -/

namespace Sys2Proof.Machine

open Sys2Proof.Config (NumTab)

/-- `encodeDigit(c) = rev4(T(c))` (R151). -/
def encodeDigit (tab : NumTab) (c : Byte) : Nibble := rev4 (tabLookup tab c)

/-- `emit` of R153: the message word of a payload, and SYNC straight after it when it ends the batch. -/
def emitWords (payload : BitVec 20) (wpos : Nat) : List Word :=
  if wpos + 1 = Config.batchWords then [messageWord payload, Config.sync] else [messageWord payload]

/-- The word position after `emit` (R153). -/
def emitPos (wpos : Nat) : Nat := if wpos + 1 = Config.batchWords then 0 else wpos + 1

/-- `acc <- ((acc << 1) | b) mod 2^20` (R153). -/
def shiftIn (acc : BitVec 20) (b : Bool) : BitVec 20 := acc <<< 1 ||| (BitVec.ofBool b).setWidth 20

/-- The loop of `pack` (R153) from the working values `acc`, `nbits` and `wpos` (R44; log 17), and the
zero-padded flush at the end of the bits. -/
def packBits (acc : BitVec 20) (nbits wpos : Nat) : List Bool → List Word
  | [] => if 0 < nbits then emitWords (acc <<< (Config.payloadBits - nbits)) wpos else []
  | b :: bits =>
    if nbits + 1 = Config.payloadBits then
      emitWords (shiftIn acc b) wpos ++ packBits 0#20 0 (emitPos wpos) bits
    else packBits (shiftIn acc b) (nbits + 1) wpos bits

/-- `pack(bits, off)` (R153). -/
def pack (bits : List Bool) (off : Nat) : List Word := packBits 0#20 0 off bits

/-- `abits(t)`: 7 bits a character, least significant first (R154). -/
def abits (t : List Byte) : List Bool :=
  t.flatMap fun c => (List.range Config.alphaBits).map fun i => c.getLsbD i

/-- `nbits(t)`: the 4 bits of `encodeDigit` a character, least significant first (R155). -/
def nbits (tab : NumTab) (t : List Byte) : List Bool :=
  t.flatMap fun c => (List.range Config.numBits).map fun i => (encodeDigit tab c).getLsbD i

/-- The bit sequence of a text for the packer `isNumeric` selects (R210, R213). -/
def textBits (tab : NumTab) (num : Bool) (t : List Byte) : List Bool :=
  if num then nbits tab t else abits t

/-- DIGIT (R160). -/
def execDigit (strict : Bool) (s : State) : Out :=
  if strict && !numericMappable s.char then raise .badChar 0#16 (beginCommand (.digit strict) s)
  else completeWith ((encodeDigit s.params.numTab s.char).setWidth 32) (beginCommand (.digit strict) s)

/-- PACKA (R161). -/
def execPacka (strict : Bool) (off : BitVec 4) (s : State) : Out :=
  if strict && !textMappable false s.mtxt then raise .badChar 0#16 (beginCommand (.packa strict off) s)
  else appendWords (pack (abits s.mtxt) off.toNat) (beginCommand (.packa strict off) s)

/-- PACKN (R162). -/
def execPackn (strict : Bool) (off : BitVec 4) (s : State) : Out :=
  if strict && !textMappable true s.mtxt then raise .badChar 0#16 (beginCommand (.packn strict off) s)
  else appendWords (pack (nbits s.params.numTab s.mtxt) off.toNat) (beginCommand (.packn strict off) s)

end Sys2Proof.Machine
end

