-- ==== Sys2Proof/Machine/Framer.lean ====
section
/-! DEFINITION. Framer.lean: the transmission assembler (45_framer.md): `encodeTransmission`, ETX. -/

namespace Sys2Proof.Machine

open Sys2Proof.Config (Params)

/-- (a) the preamble: 18 words "if `repeatIndex == 0`" and only then (R211). -/
def preamble (ridx : Nat) : List Word := if ridx = 0 then List.replicate Config.preN Config.pre else []

/-- (b) to (f): SYNC, the IDLEs up to the frame slot, the address word, the payload from word position
off + 1, and the terminating IDLE (R210, R212 to R214). -/
def framedBody (p : Params) (num : Bool) (address : BitVec 21) (fc : BitVec 2) (t : List Byte) : List Word :=
  [Config.sync] ++ List.replicate (addressOffset address) Config.idle ++ [addressWord address fc] ++
    pack (textBits p.numTab num t) (addressOffset address + 1) ++ [Config.idle]

/-- `pad(w)` under PAD_STRICT (R215). -/
def padCount (padStrict : Bool) (w : Nat) : Nat :=
  if padStrict then 17 - w % 17 else (17 - w % 17) % 17

/-- (b) to (g): the body and its padding (R210, R215). -/
def framed (p : Params) (num : Bool) (address : BitVec 21) (fc : BitVec 2) (t : List Byte) : List Word :=
  framedBody p num address fc t ++
    List.replicate (padCount p.padStrict (framedBody p num address fc t).length) Config.idle

/-- `encodeTransmission(isNumeric, repeatIndex, address, functionCode, text)` (R210). -/
def encodeTransmission (p : Params) (num : Bool) (ridx : Nat) (address : BitVec 21) (fc : BitVec 2)
    (t : List Byte) : List Word :=
  preamble ridx ++ framed p num address fc t

/-- ETX (R218). -/
def execEtx (num strict : Bool) (s : State) : Out :=
  if strict && !textMappable num s.mtxt then raise .badChar 0#16 (beginCommand (.etx num strict) s)
  else appendWords (encodeTransmission s.params num s.ridx.toNat s.addr s.fc s.mtxt)
    (beginCommand (.etx num strict) s)

end Sys2Proof.Machine
end

