-- ==== Sys2Proof/Machine/Batch.lean ====
section
/-! DEFINITION. Batch.lean: the batch orchestrator and serializer (46_batch.md): `orchestrate`,
`serialize`, BATCH, SER. -/

namespace Sys2Proof.Machine

open Sys2Proof.Config (Params)

/-- `serialize(ws, supinv)` (R233): each word complemented unless SUPINV = 1 (R63), big-endian (R62). -/
def serialize (ws : List Word) (supinv : Bool) : List Byte :=
  ws.flatMap fun w => be4 (if supinv then w else ~~~w)

/-- The `rc` transmissions of one message from running index `idx` on (R231, R232). -/
def repeats (p : Params) (rc idx : Nat) (num : Bool) (a : BitVec 21) (fc : BitVec 2) (mt : List Byte) :
    List Word :=
  (List.range rc).flatMap fun r => encodeTransmission p num (idx + r) a fc mt

/-- One message of `orchestrate` (R230): ADDR_SYNTAX, ADDR_RANGE, then BAD_CHAR in strict mode (R292),
else its words. -/
def encodeMessage (p : Params) (strict : Bool) (rc idx : Nat) (m : Message) :
    Except FaultCode (List Word) :=
  match parseAddress strict m.addressText with
  | .error c => .error c
  | .ok (a, fc) =>
    if strict && !textMappable m.isNumeric m.messageText then .error .badChar
    else .ok (repeats p rc idx m.isNumeric a fc m.messageText)

/-- The loop of `orchestrate` (R230) from message `j`, running index `idx` (R45; log 17) and the words so
far: the words, and the fault with its message index if one ends the loop. -/
def orchestrateFrom (p : Params) (strict : Bool) (rc : Nat) (j idx : Nat) (words : List Word) :
    List Message → List Word × Option (FaultCode × Nat)
  | [] => (words, none)
  | m :: q =>
    match encodeMessage p strict rc idx m with
    | .error c => (words, some (c, j))
    | .ok mw =>
      if p.outCap < words.length + mw.length then (words, some (.overflow, j))
      else orchestrateFrom p strict rc (j + 1) (idx + rc) (words ++ mw) q

/-- `orchestrate(q, rc, s)` (R230): EMPTY_LIST for an empty queue in strict mode (R235). -/
def orchestrate (p : Params) (strict : Bool) (rc : Nat) (q : List Message) :
    List Word × Option (FaultCode × Nat) :=
  if strict && q.isEmpty then ([], some (.emptyList, 0)) else orchestrateFrom p strict rc 0 0 [] q

/-- The output writes of BATCH, which stand on success and on a fault (R236, R237; log 15). -/
def writeBatch (ws : List Word) (supinv : Bool) (s : State) : State :=
  { s with outw := ws, outb := serialize ws supinv }

/-- BATCH (R237). -/
def execBatch (strict supinv : Bool) (rc : BitVec 8) (s : State) : Out :=
  match orchestrate s.params strict rc.toNat s.msgq with
  | (ws, none) =>
    completeWith (BitVec.ofNat 32 ws.length)
      (writeBatch ws supinv (beginCommand (.batch strict supinv rc) s))
  | (ws, some (c, j)) =>
    raise c (BitVec.ofNat 16 j) (writeBatch ws supinv (beginCommand (.batch strict supinv rc) s))

/-- SER (R238). -/
def execSer (supinv : Bool) (s : State) : Out :=
  completeWith (BitVec.ofNat 32 s.outw.length)
    { beginCommand (.ser supinv) s with outb := serialize s.outw supinv }

end Sys2Proof.Machine
end

