-- ==== Sys2Proof/Machine/Transactions.lean ====
section
/-! DEFINITION. Transactions.lean: the control commands NOP and CLR and the host transactions
(47_control.md), with the CMD transaction that decodes its word (R259), and RESET
(70_reset_and_hazards.md R320). -/

namespace Sys2Proof.Machine

/-- NOP (R260): "Only the CMD transaction's own writes happen". -/
def execNop (s : State) : Out := complete (beginCommand .nop s)

/-- CLR (R261). -/
def execClr (s : State) : Out :=
  completeWith 0#32 { beginCommand .clr s with outw := [], outb := [] }

/-- WR (R251). -/
def execWr (reg : BitVec 4) (value : Word) (s : State) : Out :=
  match writeReg reg value s with
  | some t => answer .nothing t
  | none => refuse .badReg s

/-- RD (R252). -/
def execRd (reg : BitVec 4) (s : State) : Out := answer (.value (readReg reg s)) s

/-- LOADA (R253). -/
def execLoada (t : List Byte) (s : State) : Out :=
  if !addressTextFits t then refuse .textLen s else answer .nothing { s with atxt := t }

/-- LOADM (R254). -/
def execLoadm (t : List Byte) (s : State) : Out :=
  if !messageTextFits t then refuse .textLen s else answer .nothing { s with mtxt := t }

/-- PUSH (R255): TEXT_LEN, then OVERFLOW, else one record more (log 13). -/
def execPush (n : Bool) (at' mt : List Byte) (s : State) : Out :=
  if !(addressTextFits at' && messageTextFits mt) then refuse .textLen s
  else if s.msgq.length = Config.maxMsgs then refuse .overflow s
  else answer .nothing { s with msgq := s.msgq ++ [⟨n, at', mt⟩] }

/-- MCLR (R256). -/
def execMclr (s : State) : Out := answer .nothing { s with msgq := [] }

/-- READW (R257). -/
def execReadw (s : State) : Out := answer (.words s.outw) s

/-- READB (R258). -/
def execReadb (s : State) : Out := answer (.bytes s.outb) s

/-- RESET (R320): every register and buffer at its reset value (R49). The build parameters stay (R323),
and so do the transactions the host has pending (log 14). -/
def execReset (s : State) : Out := .next { State.reset with port := s.port, params := s.params }

/-- A record of a reserved kind (R250): refused with ILLEGAL_OP. -/
def execReservedKind (s : State) : Out := refuse .illegalOp s

/-- A command word that decodes to no operation (R284): LASTCMD holds it (R32), then ILLEGAL_OP. -/
def execIllegalCommand (word : Word) (s : State) : Out := raise .illegalOp 0#16 (s.latchWord word)

/-- "perform op by its rule" (R259) for the instruction a command word decodes to. A host transaction is
the meaning of no command word. -/
def performCommand (word : Word) (i : Instr) (s : State) : Out :=
  match i with
  | .nop => execNop s
  | .crc => execCrc s
  | .par => execPar s
  | .cw => execCw s
  | .digit strict => execDigit strict s
  | .packa strict off => execPacka strict off s
  | .packn strict off => execPackn strict off s
  | .aoff => execAoff s
  | .parse strict => execParse strict s
  | .tlen => execTlen s
  | .nlen => execNlen s
  | .etx num strict => execEtx num strict s
  | .batch strict supinv rc => execBatch strict supinv rc s
  | .ser supinv => execSer supinv s
  | .clr => execClr s
  | .cmd _ => execIllegalCommand word s
  | .wr _ _ => execIllegalCommand word s
  | .rd _ => execIllegalCommand word s
  | .loada _ => execIllegalCommand word s
  | .loadm _ => execIllegalCommand word s
  | .push _ _ _ => execIllegalCommand word s
  | .mclr => execIllegalCommand word s
  | .readw => execIllegalCommand word s
  | .readb => execIllegalCommand word s
  | .reset => execIllegalCommand word s

/-- CMD (R259): LASTCMD takes the word, which is decoded (R90) and performed. -/
def execCmd (word : Word) (s : State) : Out :=
  match decodeCommand word with
  | .ok i => performCommand word i s
  | .error _ => execIllegalCommand word s

end Sys2Proof.Machine
end

