-- ==== Sys2Proof/Machine/Dispatch.lean ====
section
/-! DEFINITION. Dispatch.lean: one arm per constructor of `Instr`, each one call of its meaning. -/

namespace Sys2Proof.Machine

/-- The meaning of an instruction. -/
def exec (i : Instr) (s : State) : Host.Outcome State Fault Refusal :=
  match i with
  | .nop => Sys2Proof.Machine.execNop s
  | .crc => Sys2Proof.Machine.execCrc s
  | .par => Sys2Proof.Machine.execPar s
  | .cw => Sys2Proof.Machine.execCw s
  | .digit strict => Sys2Proof.Machine.execDigit strict s
  | .packa strict off => Sys2Proof.Machine.execPacka strict off s
  | .packn strict off => Sys2Proof.Machine.execPackn strict off s
  | .aoff => Sys2Proof.Machine.execAoff s
  | .parse strict => Sys2Proof.Machine.execParse strict s
  | .tlen => Sys2Proof.Machine.execTlen s
  | .nlen => Sys2Proof.Machine.execNlen s
  | .etx num strict => Sys2Proof.Machine.execEtx num strict s
  | .batch strict supinv rc => Sys2Proof.Machine.execBatch strict supinv rc s
  | .ser supinv => Sys2Proof.Machine.execSer supinv s
  | .clr => Sys2Proof.Machine.execClr s
  | .cmd word => Sys2Proof.Machine.execCmd word s
  | .wr reg value => Sys2Proof.Machine.execWr reg value s
  | .rd reg => Sys2Proof.Machine.execRd reg s
  | .loada bytes => Sys2Proof.Machine.execLoada bytes s
  | .loadm bytes => Sys2Proof.Machine.execLoadm bytes s
  | .push isNumeric addressText messageText => Sys2Proof.Machine.execPush isNumeric addressText messageText s
  | .mclr => Sys2Proof.Machine.execMclr s
  | .readw => Sys2Proof.Machine.execReadw s
  | .readb => Sys2Proof.Machine.execReadb s
  | .reset => Sys2Proof.Machine.execReset s

end Sys2Proof.Machine
end

