-- ==== Sys2Proof/Machine/Step.lean ====
section
/-! DEFINITION. Step.lean: one step of CORE: it performs the host's next transaction, whole (47_control.md
R250, 20_memory.md R73, 70_reset_and_hazards.md R331). -/

namespace Sys2Proof.Machine

/-- Performing one host record: the instruction it decodes to, or the refusal of a reserved kind (R250). -/
def performRecord (r : HostRecord) (s : State) : Host.Outcome State Fault Refusal :=
  match decodeRecord r with
  | .ok i => exec i s
  | .error _ => execReservedKind s

/-- One step: the oldest pending transaction leaves the port and is performed "in arrival order, each as
one atomic step" (R250). With none pending, all state persists (R303; log 6). -/
def step (s : State) : Host.Outcome State Fault Refusal :=
  match s.port with
  | [] => .next s
  | r :: rest => performRecord r { s with port := rest }

/-- DESIGN CHOICE (log 9): `s` with the transaction of an opcode-table word first at the port, so that the
next step performs it. -/
def State.withFetchWord (s : State) (nbits w : Nat) : State :=
  { s with port := tableRecord nbits w :: s.port }

end Sys2Proof.Machine
end

