-- ==== Sys2Proof/Safety.lean ====
section
/-! DEFINITION. Safety.lean: the states a run can be in (the bounds and reserved fields 10_state.md R30 to
R41 give), and the runs of CORE under a host that issues any transactions. -/

namespace Sys2Proof.Machine

/-- A record MSGQ can hold: texts of at most MAX_ATEXT and MAX_TEXT bytes (R37). -/
abbrev Message.Fits (m : Message) : Prop :=
  m.addressText.length ≤ Config.maxAText ∧ m.messageText.length ≤ Config.maxText

/-- The buffers are within their capacities, and OUTB is whole 4-byte groups (R37 to R41, R60). -/
abbrev State.BuffersFit (s : State) : Prop :=
  s.atxt.length ≤ Config.maxAText ∧
  s.mtxt.length ≤ Config.maxText ∧
  s.msgq.length ≤ Config.maxMsgs ∧
  (∀ m ∈ s.msgq, m.Fits) ∧
  s.outw.length ≤ s.params.outCap ∧
  s.outb.length ≤ 4 * s.params.outCap ∧
  s.outb.length % 4 = 0

/-- STATUS's reserved bits read 0, its ERR is a code of R280, and its FIDX a message index (R30, R283). -/
abbrev State.StatusLegal (s : State) : Prop :=
  s.status &&& 0xFF0000F0#32 = 0#32 ∧
  (errField s.status).toNat ≤ 8 ∧
  (fidxField s.status).toNat < Config.maxMsgs

/-- STICKY's "Bit 0 and bits 31..9 read 0", and the code in STATUS.ERR, if any, has its bit set (R31). -/
abbrev State.StickyLegal (s : State) : Prop :=
  s.sticky &&& 0xFFFFFE01#32 = 0#32 ∧
  (errField s.status ≠ 0#4 → s.sticky.getLsbD (errField s.status).toNat = true)

/-- The invariant of a CORE block built with legal parameters. -/
abbrev State.Inv (s : State) : Prop :=
  s.params.Valid ∧ s.BuffersFit ∧ s.StatusLegal ∧ s.StickyLegal

/-- The states of a run: power-on reset of a block built with legal parameters, then steps, and at any
time between them the host may change what it has pending at the port (R20, R250). -/
inductive Reachable : State → Prop where
  | powerOn (p : Config.Params) (h : p.Valid) : Reachable { State.reset with params := p }
  | issue (s : State) (rs : List HostRecord) : Reachable s → Reachable { s with port := rs }
  | step (s t : State) : Reachable s → step s = .next t → Reachable t

end Sys2Proof.Machine
end

