-- ==== Sys2Proof/Certificates/Slice0/Obligations.lean ====
section
/-! DEFINITION. Obligations.lean: the statements about the model, one `def Obligations.<Name> : Prop` each,
and the words they are stated in (`Sys2Proof.Claims`). Every statement holds for every value of the build
parameters, because `State.params` is universally quantified with the state (log 1). A statement about
`exec` also says what the model's own field `reply` holds (log 7), and of a command constructor that LASTCMD
takes its word (log 10); those clauses are the model's. -/

namespace Sys2Proof.Claims

open Sys2Proof.Machine
open Sys2Proof.Config (Params)

/-- `popcount(v)`: "the number of 1 bits" (R14). -/
def popcount (x : Word) : Nat := (List.range 32).countP fun i => x.getLsbD i

/-- The state after a command that ends without a fault: LASTCMD its word, RES its result, STATUS 0,
nothing returned, every other field as before. -/
def done (word result : Word) (s : State) : State :=
  { s with lastcmd := word, res := result, status := 0#32, reply := .nothing }

/-- The state after a transaction refused with fault code `code`: STATUS = code, FIDX 0, STICKY's bit
`code` set, nothing returned, every other field as before (R250). -/
def refusedWith (code : Nat) (s : State) : State :=
  { s with status := BitVec.ofNat 32 code, sticky := s.sticky ||| BitVec.ofNat 32 (2 ^ code),
           reply := .nothing }

/-- The state after a command that faults with `code` and FIDX = `fidx`: the writes of R281 and LASTCMD,
every other field as before. -/
def faultedWith (word : Word) (code fidx : Nat) (s : State) : State :=
  { s with lastcmd := word, status := BitVec.ofNat 32 (code + 256 * fidx),
           sticky := s.sticky ||| BitVec.ofNat 32 (2 ^ code), reply := .nothing }

/-- The operation a transaction performs: a CMD performs the command its word decodes to, none if the
word is illegal; every other instruction is its own operation. -/
def operation (i : Instr) : Option Instr :=
  match i with
  | .cmd w => (decodeCommand w).toOption
  | j => some j

/-- A transaction of kind 0: a CMD with any word, or one of the 15 commands. -/
def isCommand (i : Instr) : Bool :=
  match i with
  | .cmd _ => true
  | j => j.commandWord.isSome

/-- The host transactions of kinds 1 to 9 that are refused (R250): a WR to an id above 6 (R291), a LOADA,
LOADM or PUSH of a text over its capacity (R289), a PUSH to a full queue (R290). -/
def Refused (i : Instr) (s : State) : Prop :=
  match i with
  | .wr reg _ => 7 ≤ reg.toNat
  | .loada t => 32 < t.length
  | .loadm t => 65535 < t.length
  | .push _ at' mt => 32 < at'.length ∨ 65535 < mt.length ∨ s.msgq.length = 256
  | _ => False

/-- The STRICT bit of an operation, false where it has none (R89). -/
def strictOf : Instr → Bool
  | .digit st => st
  | .packa st _ => st
  | .packn st _ => st
  | .parse st => st
  | .etx _ st => st
  | .batch st _ _ => st
  | _ => false

/-- The characters of R152: '0'..'9', ' ', 'U', 'u', '-', '_', '(', '[', ')', ']'. -/
def numericCharacters : List Byte :=
  [0x30#8, 0x31#8, 0x32#8, 0x33#8, 0x34#8, 0x35#8, 0x36#8, 0x37#8, 0x38#8, 0x39#8,
   0x20#8, 0x55#8, 0x75#8, 0x2D#8, 0x5F#8, 0x28#8, 0x5B#8, 0x29#8, 0x5D#8]

/-- Every character of the text is mappable for the packer (R152). -/
abbrev Mappable (num : Bool) (t : List Byte) : Prop :=
  ∀ c ∈ t, if num then c ∈ numericCharacters else c.toNat < 0x80

/-- The widths of registers 0 to 6 (R21). -/
def operandWidth (reg : BitVec 4) : Nat := [21, 32, 21, 2, 32, 16, 8].getD reg.toNat 0

/-- What reading each register id returns, as a number (R21, R33 to R35). -/
def registerReadings (s : State) : List Nat :=
  [s.data.toNat, s.px.toNat, s.addr.toNat, s.fc.toNat, s.ridx.toNat, s.nch.toNat, s.char.toNat,
   s.res.toNat, s.status.toNat, s.sticky.toNat, s.outw.length % 2 ^ 32, s.lastcmd.toNat,
   s.msgq.length % 2 ^ 32, 0, 0, 0]

/-- P, the number of message words `n` bits fill (R157). -/
def messageWords (n : Nat) : Nat := (n + 19) / 20

/-- The packer's word count for `n` bits from word position `off` (R157). -/
def packedCount (n off : Nat) : Nat := messageWords n + (off + messageWords n) / 16

/-- A message word's payload, first packed bit first (R97): word bits 30 down to 11. -/
def payloadOf (w : Word) : List Bool := (List.range 20).map fun i => w.getLsbD (30 - i)

/-- The flag bit of a word (R95). -/
def flag (w : Word) : Bool := w.getLsbD 31

/-- The payload bits the message words (flag 1) of a word sequence carry, in transmission order. -/
def carriedBits (ws : List Word) : List Bool := (ws.filter flag).flatMap payloadOf

/-- `Σ (p[i] - 0x30) · 10^(len(p)-1-i)` (R183). -/
def decimalSum (p : List Byte) : Nat :=
  ∑ i ∈ Finset.range p.length, ((p.getD i 0#8).toNat - 0x30) * 10 ^ (p.length - 1 - i)

/-- A non-empty text of the ASCII digits 0x30..0x39 (R183). -/
abbrev IsNumber (p : List Byte) : Prop := p ≠ [] ∧ ∀ c ∈ p, 0x30 ≤ c.toNat ∧ c.toNat ≤ 0x39

/-- `t` is the number text `p` and a function letter, fc 0 to 3 for A to D, or `p` alone with fc = 3
(R182). -/
abbrev AddressForm (t p : List Byte) (fc : BitVec 2) : Prop :=
  IsNumber p ∧ (t = p ++ [BitVec.ofNat 8 (0x41 + fc.toNat)] ∨ (t = p ∧ fc = 3#2))

/-- `n` of R185: the words of a transmission that R187 rounds up to batches. -/
def unpaddedCount (num : Bool) (address : BitVec 21) (chars : Nat) : Nat :=
  2 * (address.toNat % 8) + 1 + messageWords (chars * if num then 4 else 7) + 1

/-- `batches(n)` (R187). -/
def batchCount (padStrict : Bool) (n : Nat) : Nat := if padStrict then n / 16 + 1 else (n + 15) / 16

/-- The words of a transmission from its sync word on: 17 a batch (R216). -/
def framedCount (padStrict num : Bool) (address : BitVec 21) (chars : Nat) : Nat :=
  17 * batchCount padStrict (unpaddedCount num address chars)

/-- The predicted length of a transmission: the preamble's 18 words only for repeat index 0 (R185). -/
def transmissionCount (padStrict num : Bool) (ridx : Nat) (address : BitVec 21) (chars : Nat) : Nat :=
  framedCount padStrict num address chars + if ridx = 0 then 18 else 0

/-- The address and function code of an address text whose syntax is legal (R182, R184). -/
def addressOf (t : List Byte) : BitVec 21 × BitVec 2 :=
  match parseAddress false t with
  | .ok x => x
  | .error _ => (0#21, 3#2)

/-- A message BATCH encodes: its address parses, and in strict mode its text is mappable (R230). -/
def Accepted (strict : Bool) (m : Message) : Prop :=
  (∃ x, parseAddress strict m.addressText = .ok x) ∧
    (strict = true → Mappable m.isNumeric m.messageText)

/-- The words of a queue encoded `rc` times a message: ONE preamble in front, then each message's framed
transmission `rc` times in a row, message after message (R231, R232). -/
def batchStream (p : Params) (rc : Nat) (q : List Message) : List Word :=
  (if rc = 0 ∨ q = [] then [] else List.replicate 18 0xAAAAAAAA#32) ++
    q.flatMap fun m =>
      (List.replicate rc
        (framed p m.isNumeric (addressOf m.addressText).1 (addressOf m.addressText).2
          m.messageText)).flatten

/-- The BATCH command word (R89). -/
def batchWord (strict supinv : Bool) (rc : BitVec 8) : Word :=
  BitVec.ofNat 32 (0xC + 0x20 * strict.toNat + 0x40 * supinv.toNat + 0x10000 * rc.toNat)

end Sys2Proof.Claims

open Sys2Proof Sys2Proof.Machine Sys2Proof.Claims

/-! ### Encodings (30_encoding.md) -/

/-- Decode and encode agree: every instruction, every value of every operand. -/
def Obligations.DecodeOfEncodeIsIdentity : Prop :=
  ∀ i : Instr, decode (encode i) = .ok i

/-- Every legal command word has one meaning: it is the word its instruction encodes to. -/
def Obligations.LegalCommandWordIsItsEncoding : Prop :=
  ∀ (w : Word) (i : Instr), decodeCommand w = .ok i → encode i = .command w

/-- R90: "At most one row matches" of the 15 rows, and every mask covers bits 3:0. -/
def Obligations.AtMostOneCommandRowMatches : Prop :=
  (commandRows.Pairwise fun r q => ∀ w : Word, ¬(r.accepts w = true ∧ q.accepts w = true)) ∧
  ∀ r ∈ commandRows, r.mask &&& 0xF#32 = 0xF#32

/-- Which command words are legal, bit by bit (R88, R89, R92): OP is not 0xF, the reserved bits are 0, and
each selector bit is set only in a word of an operation that uses it. -/
def Obligations.LegalCommandWordsBitByBit : Prop :=
  ∀ w : Word, (∃ i, decodeCommand w = .ok i) ↔
    (w.toNat % 16 ≠ 0xF ∧
     w.getLsbD 7 = false ∧
     (∀ k, 12 ≤ k → k ≤ 15 → w.getLsbD k = false) ∧
     (∀ k, 24 ≤ k → k ≤ 31 → w.getLsbD k = false) ∧
     (w.getLsbD 4 = true → w.toNat % 16 = 0xB) ∧
     (w.getLsbD 5 = true → w.toNat % 16 ∈ [0x4, 0x5, 0x6, 0x8, 0xB, 0xC]) ∧
     (w.getLsbD 6 = true → w.toNat % 16 ∈ [0xC, 0xD]) ∧
     (∀ k, 8 ≤ k → k ≤ 11 → w.getLsbD k = true → w.toNat % 16 ∈ [0x5, 0x6]) ∧
     (∀ k, 16 ≤ k → k ≤ 23 → w.getLsbD k = true → w.toNat % 16 = 0xC))

/-- Words of 95_test_vectors.md, Part L2, section 30, and the programs of Part L3 (a sanity statement). -/
def Obligations.SpecCommandWordsDecode : Prop :=
  decodeCommand 0x00000000#32 = .ok .nop ∧
  decodeCommand 0x00000001#32 = .ok .crc ∧
  decodeCommand 0x0000000E#32 = .ok .clr ∧
  decodeCommand 0x00000024#32 = .ok (.digit true) ∧
  decodeCommand 0x00000F25#32 = .ok (.packa true 15#4) ∧
  decodeCommand 0x0000003B#32 = .ok (.etx true true) ∧
  decodeCommand 0x0002006C#32 = .ok (.batch true true 2#8) ∧
  decodeCommand 0x0000004D#32 = .ok (.ser true) ∧
  decodeCommand 0x0000000F#32 = .error .reservedOp ∧
  decodeCommand 0x00000080#32 = .error .reservedBit ∧
  decodeCommand 0x00000010#32 = .error .unusedField ∧
  decodeRecord { blankRecord 1#4 with reg := 5#4, value := 7#32 } = .ok (.wr 5#4 7#32)

/-- The kinds 0 to 9 of R94 decode to their transactions, whatever the other payload fields hold, and 10
to 15 to none. -/
def Obligations.HostRecordKindsDecode : Prop :=
  ∀ r : HostRecord,
    (r.kind = 0#4 → decodeRecord r = .ok (.cmd r.word)) ∧
    (r.kind = 1#4 → decodeRecord r = .ok (.wr r.reg r.value)) ∧
    (r.kind = 2#4 → decodeRecord r = .ok (.rd r.reg)) ∧
    (r.kind = 3#4 → decodeRecord r = .ok (.loada r.bytes)) ∧
    (r.kind = 4#4 → decodeRecord r = .ok (.loadm r.bytes)) ∧
    (r.kind = 5#4 → decodeRecord r = .ok (.push r.isNumeric r.addressText r.messageText)) ∧
    (r.kind = 6#4 → decodeRecord r = .ok .mclr) ∧
    (r.kind = 7#4 → decodeRecord r = .ok .readw) ∧
    (r.kind = 8#4 → decodeRecord r = .ok .readb) ∧
    (r.kind = 9#4 → decodeRecord r = .ok .reset) ∧
    (10 ≤ r.kind.toNat → decodeRecord r = .error .reservedKind)

/-! ### The step -/

/-- A step performs the oldest pending record, whole: it is `exec` of the instruction the record decodes to,
on the state with the record taken from the port (R250); a record of a reserved kind 10..15 is refused with
ILLEGAL_OP (R250); with nothing pending the state stays (R303; log 6). -/
def Obligations.StepRunsTheDecodedInstruction : Prop :=
  (∀ (s : State) (r : HostRecord) (rest : List HostRecord) (i : Instr),
    s.port = r :: rest → decodeRecord r = .ok i → step s = exec i { s with port := rest }) ∧
  (∀ (s : State) (r : HostRecord) (rest : List HostRecord), s.port = r :: rest → 10 ≤ r.kind.toNat →
    step s = .next (refusedWith 1 { s with port := rest })) ∧
  ∀ s : State, s.port = [] → step s = .next s

/-- R259: a CMD transaction with a legal word performs its command, and LASTCMD holds the word; an illegal
word is held in LASTCMD too, ILLEGAL_OP is recorded, and nothing else changes (R281, R284). -/
def Obligations.CommandTransactionPerformsItsWord : Prop :=
  (∀ (s : State) (w : Word) (i : Instr), decodeCommand w = .ok i →
    exec (.cmd w) s = exec i s ∧
    (∃ t, exec (.cmd w) s = .next t ∧ t.lastcmd = w) ∧
    ∀ rest, s.port = commandRecord w :: rest → step s = exec i { s with port := rest }) ∧
  ∀ (s : State) (w : Word), (∀ i, decodeCommand w ≠ .ok i) →
    exec (.cmd w) s = .next (faultedWith w 1 0 s)

/-- R332: "Every transaction completes": no instruction and no record stops the machine, in any state. -/
def Obligations.EveryTransactionCompletes : Prop :=
  (∀ (i : Instr) (s : State), ∃ t, exec i s = .next t) ∧ ∀ s : State, ∃ t, step s = .next t

/-! ### Whole-machine rules -/

/-- Every step keeps the invariant: legal parameters, buffers within their capacities, OUTB in 4-byte
groups, STATUS and STICKY with their reserved bits 0, and the recorded code's STICKY bit set. -/
def Obligations.EveryStepKeepsTheInvariant : Prop :=
  ∀ s t : State, s.Inv → step s = .next t → t.Inv

/-- The invariant holds at reset, for every legal choice of the build parameters. -/
def Obligations.ResetHasTheInvariant : Prop :=
  State.reset.Inv ∧ ∀ p : Config.Params, p.Valid → State.Inv { State.reset with params := p }

/-- So it holds in every state of every run, whatever transactions the host issues and whenever. -/
def Obligations.EveryReachableStateHasTheInvariant : Prop :=
  ∀ s : State, Reachable s → s.Inv

/-- R323, R48: no transaction changes a build parameter, RESET included. -/
def Obligations.NoTransactionChangesTheParameters : Prop :=
  (∀ (i : Instr) (s t : State), exec i s = .next t → t.params = s.params) ∧
  ∀ s t : State, step s = .next t → t.params = s.params

/-- R31: no transaction but RESET clears a STICKY bit, and a command that ends with ERR = e ≠ 0 leaves bit
e set. -/
def Obligations.OnlyResetClearsStickyBits : Prop :=
  ∀ (i : Instr) (s t : State), exec i s = .next t →
    (i ≠ .reset → ∀ k, s.sticky.getLsbD k = true → t.sticky.getLsbD k = true) ∧
    (isCommand i = true → errField t.status ≠ 0#4 →
      t.sticky.getLsbD (errField t.status).toNat = true) ∧
    (i = .reset → t.sticky = 0#32)

/-- R21: the operand registers change only by WR and RESET, ADDR and FC also by PARSE; RES and LASTCMD only
by commands and RESET, and NOP leaves RES; STATUS only by commands, refused transactions and RESET; STICKY
only by faults and RESET: a command that ends with ERR = 0 and a host transaction that is not refused leave
it. (A record of a reserved kind has no instruction: `StepRunsTheDecodedInstruction` says its refusal.) -/
def Obligations.RegistersChangeOnlyByTheirWriters : Prop :=
  ∀ (i : Instr) (s t : State), exec i s = .next t → i ≠ .reset →
    ((∀ r v, i ≠ .wr r v) →
      t.data = s.data ∧ t.px = s.px ∧ t.ridx = s.ridx ∧ t.nch = s.nch ∧ t.char = s.char ∧
      ((∀ st, operation i ≠ some (.parse st)) → t.addr = s.addr ∧ t.fc = s.fc)) ∧
    (isCommand i = false → t.res = s.res ∧ t.lastcmd = s.lastcmd) ∧
    (operation i = some .nop → t.res = s.res) ∧
    (isCommand i = false → ¬ Refused i s → t.status = s.status ∧ t.sticky = s.sticky) ∧
    (isCommand i = true → errField t.status = 0#4 → t.sticky = s.sticky)

/-- R37 to R41, R327, R329: each buffer changes only by its own transactions, and PACKA, PACKN and ETX keep
the earlier words of OUTW in front. That `exec` leaves the port alone is the model's choice and no rule of
the spec: the port is the model's field (log 6), and a RESET keeps what is pending (log 14). -/
def Obligations.BuffersChangeOnlyByTheirWriters : Prop :=
  ∀ (i : Instr) (s t : State), exec i s = .next t →
    t.port = s.port ∧
    (i ≠ .reset →
      ((∀ b, i ≠ .loada b) → t.atxt = s.atxt) ∧
      ((∀ b, i ≠ .loadm b) → t.mtxt = s.mtxt) ∧
      ((∀ n a m, i ≠ .push n a m) → i ≠ .mclr → t.msgq = s.msgq) ∧
      ((∀ st su rc, operation i ≠ some (.batch st su rc)) → operation i ≠ some .clr →
        s.outw <+: t.outw ∧
        ((∀ st off, operation i ≠ some (.packa st off)) → (∀ st off, operation i ≠ some (.packn st off)) →
          (∀ n st, operation i ≠ some (.etx n st)) → t.outw = s.outw) ∧
        ((∀ su, operation i ≠ some (.ser su)) → t.outb = s.outb)))

/-- R281: a command that faults, other than BATCH, changes only STATUS, STICKY and LASTCMD. -/
def Obligations.FaultingCommandWritesOnlyTheRecord : Prop :=
  ∀ (i : Instr) (s t : State), exec i s = .next t → isCommand i = true →
    (∀ st su rc, operation i ≠ some (.batch st su rc)) → errField t.status ≠ 0#4 →
    ∃ word code, t = faultedWith word code 0 s ∧ 1 ≤ code ∧ code ≤ 8

/-- R250: a host transaction other than CMD and RESET either leaves STATUS and STICKY alone or is refused,
and then nothing but STATUS and STICKY changes. -/
def Obligations.HostTransactionLeavesStatusOrIsRefused : Prop :=
  ∀ (i : Instr) (s t : State), exec i s = .next t → isCommand i = false → i ≠ .reset →
    (t.status = s.status ∧ t.sticky = s.sticky) ∨
    (t = refusedWith 6 s ∨ t = refusedWith 7 s ∨ t = refusedWith 8 s)

/-- R304: with STRICT = 0 a legal command faults only with ADDR_SYNTAX (PARSE, BATCH) or OVERFLOW (PACKA,
PACKN, ETX, BATCH). -/
def Obligations.DefaultModeFaults : Prop :=
  ∀ (i j : Instr) (s t : State), exec i s = .next t → isCommand i = true → operation i = some j →
    strictOf j = false →
    errField t.status = 0#4 ∨
    (errField t.status = 2#4 ∧ ((∃ st, j = .parse st) ∨ ∃ st su rc, j = .batch st su rc)) ∨
    (errField t.status = 7#4 ∧
      ((∃ st off, j = .packa st off) ∨ (∃ st off, j = .packn st off) ∨ (∃ n st, j = .etx n st) ∨
        ∃ st su rc, j = .batch st su rc))

/-- R26: "Only whether it equals 0 affects any result" of RIDX, for TLEN, NLEN and ETX. -/
def Obligations.OnlyZeroOfRepeatIndexMatters : Prop :=
  ∀ (i : Instr) (s : State) (r : BitVec 32), (r = 0#32 ↔ s.ridx = 0#32) →
    (i = .tlen ∨ i = .nlen ∨ ∃ n st, i = .etx n st) →
    ∃ t, exec i s = .next t ∧ exec i { s with ridx := r } = .next { t with ridx := r }

/-! ### Host transactions (47_control.md) -/

/-- R36, R251: a write to id 0..6 stores `v mod 2^N`, reads back zero-extended, and changes nothing else;
R35, R291: a write to id 7..15 is refused with BAD_REG. -/
def Obligations.RegisterWriteStoresOrIsRefused : Prop :=
  ∀ (s : State) (reg : BitVec 4) (v : Word),
    (reg.toNat ≤ 6 →
      ∃ t, exec (.wr reg v) s = .next t ∧
        exec (.rd reg) t =
          .next { t with reply := .value (BitVec.ofNat 32 (v.toNat % 2 ^ operandWidth reg)) } ∧
        (∀ q : BitVec 4, q ≠ reg → readReg q t = readReg q s) ∧
        t.atxt = s.atxt ∧ t.mtxt = s.mtxt ∧ t.msgq = s.msgq ∧ t.outw = s.outw ∧ t.outb = s.outb ∧
        t.port = s.port ∧ t.params = s.params ∧ t.reply = .nothing) ∧
    (7 ≤ reg.toNat → exec (.wr reg v) s = .next (refusedWith 8 s))

/-- R252: RD returns the register of its id, ids 13..15 read 0, and no state changes. -/
def Obligations.RegisterReadReturnsTheRegister : Prop :=
  ∀ (s : State) (reg : BitVec 4),
    ∃ v : Word, exec (.rd reg) s = .next { s with reply := .value v } ∧
      v.toNat = (registerReadings s).getD reg.toNat 0

/-- R253, R254: LOADA and LOADM replace their buffer whole, or refuse a text over its capacity. -/
def Obligations.LoadReplacesTheTextBuffer : Prop :=
  ∀ (s : State) (t : List Byte),
    (t.length ≤ 32 → exec (.loada t) s = .next { s with atxt := t, reply := .nothing }) ∧
    (32 < t.length → exec (.loada t) s = .next (refusedWith 6 s)) ∧
    (t.length ≤ 65535 → exec (.loadm t) s = .next { s with mtxt := t, reply := .nothing }) ∧
    (65535 < t.length → exec (.loadm t) s = .next (refusedWith 6 s))

/-- R255: PUSH appends one record; TEXT_LEN comes before OVERFLOW (R292). -/
def Obligations.PushAppendsOneMessage : Prop :=
  ∀ (s : State) (n : Bool) (at' mt : List Byte),
    (at'.length ≤ 32 → mt.length ≤ 65535 → s.msgq.length ≠ 256 →
      exec (.push n at' mt) s =
        .next { s with msgq := s.msgq ++ [{ isNumeric := n, addressText := at', messageText := mt }],
                       reply := .nothing }) ∧
    (32 < at'.length ∨ 65535 < mt.length → exec (.push n at' mt) s = .next (refusedWith 6 s)) ∧
    (at'.length ≤ 32 → mt.length ≤ 65535 → s.msgq.length = 256 →
      exec (.push n at' mt) s = .next (refusedWith 7 s))

/-- R256 to R258: MCLR empties MSGQ; READW and READB return OUTW and OUTB whole; nothing else changes. -/
def Obligations.QueueClearAndBufferReads : Prop :=
  ∀ s : State,
    exec .mclr s = .next { s with msgq := [], reply := .nothing } ∧
    exec .readw s = .next { s with reply := .words s.outw } ∧
    exec .readb s = .next { s with reply := .bytes s.outb }

/-- R320, R49: RESET puts every register and buffer at its reset value, from any state; the build
parameters stay (R323), and so do the host's pending transactions (log 14). -/
def Obligations.ResetTransactionRestoresResetValues : Prop :=
  ∀ s : State, ∃ t, exec .reset s = .next t ∧
    t.data = 0#21 ∧ t.px = 0#32 ∧ t.addr = 0#21 ∧ t.fc = 3#2 ∧ t.ridx = 0#32 ∧ t.nch = 0#16 ∧
    t.char = 0#8 ∧ t.res = 0#32 ∧ t.status = 0#32 ∧ t.sticky = 0#32 ∧ t.lastcmd = 0#32 ∧
    t.atxt = [] ∧ t.mtxt = [] ∧ t.msgq = [] ∧ t.outw = [] ∧ t.outb = [] ∧
    t.port = s.port ∧ t.params = s.params ∧ t.reply = .nothing ∧
    { t with port := [], params := Config.defaultParams } = State.reset

/-- R260, R261: NOP only clears STATUS (and writes LASTCMD); CLR also empties the outputs and zeroes RES. -/
def Obligations.NopAndClrEffects : Prop :=
  ∀ s : State,
    exec .nop s = .next { s with lastcmd := 0x0#32, status := 0#32, reply := .nothing } ∧
    exec .clr s = .next { done 0xE#32 0#32 s with outw := [], outb := [] }

/-! ### CRC, parity, codewords (41_crc_parity.md, 42_codeword.md) -/

/-- R121: crc(data) is the remainder of data · x^10 by G over GF(2), as polynomials. -/
def Obligations.CrcIsThePolynomialRemainder : Prop :=
  ∀ d : BitVec 21,
    (∑ i ∈ Finset.range 10, if (crc d).getLsbD i then (Polynomial.X : Polynomial (ZMod 2)) ^ i else 0) =
      ((∑ i ∈ Finset.range 21, if d.getLsbD i then (Polynomial.X : Polynomial (ZMod 2)) ^ i else 0) *
          Polynomial.X ^ 10) %ₘ
        (∑ i ∈ Finset.range 11,
          if Config.generator.getLsbD i then (Polynomial.X : Polynomial (ZMod 2)) ^ i else 0)

/-- R122: the bit-serial form computes the same function as the long division of R121. -/
def Obligations.SerialCrcIsTheSameFunction : Prop :=
  ∀ d : BitVec 21, crcSerial d = crc d

/-- R123, R124: the codeword `(data<<10)|crc(data)` divides by G; crc is linear, crc(0) = 0, and the single-bit values are the rule's list. -/
def Obligations.CrcDividesAndIsLinear : Prop :=
  (∀ d : BitVec 21, divide (d.setWidth 31 <<< 10 ||| (crc d).setWidth 31) = 0#31) ∧
  (∀ a b : BitVec 21, crc (a ^^^ b) = crc a ^^^ crc b) ∧
  crc 0#21 = 0#10 ∧
  ((List.range 21).map fun i => crc (1#21 <<< i)) =
    [0x369#10, 0x1BB#10, 0x376#10, 0x185#10, 0x30A#10, 0x17D#10, 0x2FA#10, 0x29D#10, 0x253#10, 0x3CF#10,
     0x0F7#10, 0x1EE#10, 0x3DC#10, 0x0D1#10, 0x1A2#10, 0x344#10, 0x1E1#10, 0x3C2#10, 0x0ED#10, 0x1DA#10,
     0x3B4#10]

/-- R125: parity is 1 exactly when the bit count is odd, so appending it makes the total even. -/
def Obligations.ParityIsTheOddCountBit : Prop :=
  ∀ x : Word, (parity x = true ↔ popcount x % 2 = 1) ∧ (popcount x + (parity x).toNat) % 2 = 0

/-- R140, R141, R143: a codeword's bits 31:11 are the data, bits 10:1 its CRC and bit 0 the parity of the
rest; its weight is even; its 31 high bits divide by G; and two data values never give one word. -/
def Obligations.CodewordLayoutAndWeight : Prop :=
  (∀ d : BitVec 21,
    (encodeCodeword d).extractLsb' 11 21 = d ∧
    (encodeCodeword d).extractLsb' 1 10 = crc d ∧
    (encodeCodeword d).getLsbD 0 = parity ((encodeCodeword d) >>> 1) ∧
    popcount (encodeCodeword d) % 2 = 0 ∧
    divide ((encodeCodeword d).extractLsb' 1 31) = 0#31) ∧
  ∀ a b : BitVec 21, encodeCodeword a = encodeCodeword b → a = b

/-- R126, R127, R144: CRC, PAR and CW leave the remainder (here by the serial form), the odd-count bit and a
word of the layout and weight of R140 and R141 in RES, and change nothing else (log 7, log 10). -/
def Obligations.CrcParityCodewordCommands : Prop :=
  ∀ s : State,
    exec .crc s = .next (done 0x1#32 ((crcSerial s.data).setWidth 32) s) ∧
    exec .par s = .next (done 0x2#32 (BitVec.ofNat 32 (popcount s.px % 2)) s) ∧
    ∃ w : Word, exec .cw s = .next (done 0x3#32 w s) ∧
      w.extractLsb' 11 21 = s.data ∧ w.extractLsb' 1 10 = crcSerial s.data ∧ popcount w % 2 = 0

/-- R98: SYNC and IDLE are codewords, the preamble word is none (a sanity statement). -/
def Obligations.FixedWordsAsCodewords : Prop :=
  Config.sync = 0x7CD215D8#32 ∧ encodeCodeword 0x0F9A42#21 = Config.sync ∧
  Config.sync.extractLsb' 11 21 = 0x0F9A42#21 ∧ Config.sync.extractLsb' 1 10 = 0x2EC#10 ∧
  crc 0x0F9A42#21 = 0x2EC#10 ∧ Config.sync.getLsbD 0 = false ∧
  Config.idle = 0x7A89C197#32 ∧ encodeCodeword 0x0F5138#21 = Config.idle ∧
  Config.idle.extractLsb' 11 21 = 0x0F5138#21 ∧ Config.idle.extractLsb' 1 10 = 0x0CB#10 ∧
  crc 0x0F5138#21 = 0x0CB#10 ∧ Config.idle.getLsbD 0 = true ∧
  Config.pre = 0xAAAAAAAA#32 ∧ Config.pre.extractLsb' 11 21 = 0x155555#21 ∧
  Config.pre.extractLsb' 1 10 = 0x155#10 ∧ crc 0x155555#21 = 0x38D#10 ∧ Config.pre.getLsbD 0 = false ∧
  ∀ d : BitVec 21, encodeCodeword d ≠ 0xAAAAAAAA#32

/-! ### Payload packers (43_packers.md) -/

/-- R151, R152, R160: DIGIT leaves the table value of CHAR with its 4 bits reversed; in strict mode a
character outside the 19 listed ones faults with BAD_CHAR. -/
def Obligations.DigitCommandReversesTheTableValue : Prop :=
  ∀ (s : State) (strict : Bool),
    (strict = false ∨ s.char ∈ numericCharacters →
      ∃ v : Word, exec (.digit strict) s = .next (done (BitVec.ofNat 32 (0x4 + 0x20 * strict.toNat)) v s) ∧
        v.toNat < 16 ∧
        ∀ k, k < 4 → v.getLsbD k = (tabLookup s.params.numTab s.char).getLsbD (3 - k)) ∧
    (strict = true → s.char ∉ numericCharacters →
      exec (.digit strict) s = .next (faultedWith 0x24#32 5 0 s))

/-- R150: which characters share an entry of NUMTAB, for any table. -/
def Obligations.NumericTableShape : Prop :=
  ∀ (tab : Config.NumTab) (c : Byte),
    tabLookup tab c =
      if c = 0x30#8 then tab.dt0 else if c = 0x31#8 then tab.dt1 else if c = 0x32#8 then tab.dt2
      else if c = 0x33#8 then tab.dt3 else if c = 0x34#8 then tab.dt4 else if c = 0x35#8 then tab.dt5
      else if c = 0x36#8 then tab.dt6 else if c = 0x37#8 then tab.dt7 else if c = 0x38#8 then tab.dt8
      else if c = 0x39#8 then tab.dt9
      else if c = 0x20#8 then tab.tSpace
      else if c = 0x55#8 ∨ c = 0x75#8 then tab.tU
      else if c = 0x2D#8 ∨ c = 0x5F#8 then tab.tHyphen
      else if c = 0x28#8 ∨ c = 0x5B#8 then tab.tOpen
      else if c = 0x29#8 ∨ c = 0x5D#8 then tab.tClose
      else tab.tFallback

/-- R154, R155, R159: the bit sequences: bit j of the alphanumeric character k at 7k + j, and bit 3 - j of
the numeric character k's table value at 4k + j. -/
def Obligations.TextBitSequences : Prop :=
  ∀ (tab : Config.NumTab) (t : List Byte),
    (abits t).length = 7 * t.length ∧
    (nbits tab t).length = 4 * t.length ∧
    ∀ (k : Nat) (c : Byte), t[k]? = some c →
      (∀ j, j < 7 → (abits t)[7 * k + j]? = some (c.getLsbD j)) ∧
      (∀ j, j < 4 → (nbits tab t)[4 * k + j]? = some ((encodeDigit tab c).getLsbD j)) ∧
      (∀ j, j < 4 → (nbits tab t)[4 * k + j]? = some ((tabLookup tab c).getLsbD (3 - j)))

/-- R157: the word count law. -/
def Obligations.PackedWordCount : Prop :=
  (∀ (bits : List Bool) (off : Nat), off ≤ 15 → (pack bits off).length = packedCount bits.length off) ∧
  (∀ (tab : Config.NumTab) (t : List Byte) (off : Nat), off ≤ 15 →
    (pack (abits t) off).length = packedCount (7 * t.length) off ∧
    (pack (nbits tab t) off).length = (t.length + 4) / 5 + (off + (t.length + 4) / 5) / 16) ∧
  ∀ off, pack [] off = []

/-- R153, R97: packing loses no bit: the message words' payloads, in order, are the bits and fewer than 20
zero pad bits; and every word is a message codeword or SYNC. -/
def Obligations.PackingKeepsEveryBit : Prop :=
  ∀ (bits : List Bool) (off : Nat), off ≤ 15 →
    carriedBits (pack bits off) = bits ++ List.replicate ((20 - bits.length % 20) % 20) false ∧
    ∀ w ∈ pack bits off,
      w = 0x7CD215D8#32 ∨ (flag w = true ∧ encodeCodeword (w.extractLsb' 11 21) = w)

/-- R153: SYNC stands straight after each word that ends a batch, and nowhere else: counting the packer's
first word as word off + 1 of a 17-word block whose word 0 is the sync. -/
def Obligations.PackerSyncPositions : Prop :=
  ∀ (bits : List Bool) (off k : Nat) (w : Word), off ≤ 15 → (pack bits off)[k]? = some w →
    (w = 0x7CD215D8#32 ↔ (off + 1 + k) % 17 = 0)

/-- R161, R162: PACKA and PACKN append their words to OUTW and leave the count in RES, when OUT_CAP allows
and, in strict mode, every character is mappable. -/
def Obligations.PackCommandsAppendTheirWords : Prop :=
  ∀ (s : State) (strict : Bool) (off : BitVec 4),
    ((strict = true → Mappable false s.mtxt) →
      s.outw.length + packedCount (7 * s.mtxt.length) off.toNat ≤ s.params.outCap →
      exec (.packa strict off) s = .next
        { done (BitVec.ofNat 32 (0x5 + 0x20 * strict.toNat + 0x100 * off.toNat))
            (BitVec.ofNat 32 (packedCount (7 * s.mtxt.length) off.toNat)) s with
          outw := s.outw ++ pack (abits s.mtxt) off.toNat }) ∧
    ((strict = true → Mappable true s.mtxt) →
      s.outw.length + packedCount (4 * s.mtxt.length) off.toNat ≤ s.params.outCap →
      exec (.packn strict off) s = .next
        { done (BitVec.ofNat 32 (0x6 + 0x20 * strict.toNat + 0x100 * off.toNat))
            (BitVec.ofNat 32 (packedCount (4 * s.mtxt.length) off.toNat)) s with
          outw := s.outw ++ pack (nbits s.params.numTab s.mtxt) off.toNat })

/-! ### Address and length (44_address_length.md) -/

/-- R180, R189: AOFF leaves twice the frame selector: 2·(ADDR mod 8), even and in 0..14. -/
def Obligations.FrameOffsetCommand : Prop :=
  ∀ s : State, exec .aoff s = .next (done 0x7#32 (BitVec.ofNat 32 (2 * (s.addr.toNat % 8))) s)

/-- R183: the decimal value of a digit text, and ADDR_SYNTAX for any other text. -/
def Obligations.DecimalValueOfDigitTexts : Prop :=
  ∀ p : List Byte,
    (IsNumber p → decimal p = some (decimalSum p)) ∧
    (¬ IsNumber p → decimal p = none) ∧
    ∀ (strict : Bool) (t : List Byte), (splitAddress t).1 = p → ¬ IsNumber p →
      parseAddress strict t = .error .addrSyntax

/-- R182, R184, R190: PARSE of a number with an optional letter A..D writes ADDR, FC and RES; in default
mode a wide value is cut to 21 bits. -/
def Obligations.ParseCommandAcceptsAddresses : Prop :=
  ∀ (s : State) (strict : Bool) (p : List Byte) (fc : BitVec 2),
    AddressForm s.atxt p fc → (strict = true → decimalSum p ≤ 2097151) →
    exec (.parse strict) s = .next
      { done (BitVec.ofNat 32 (0x8 + 0x20 * strict.toNat))
          (BitVec.ofNat 32 (fc.toNat * 2 ^ 21 + decimalSum p % 2 ^ 21)) s with
        addr := BitVec.ofNat 21 (decimalSum p), fc := fc }

/-- R285, R286: PARSE of any other text faults with ADDR_SYNTAX in both modes; in strict mode a value
above 2,097,151 faults with ADDR_RANGE. ADDR, FC and RES stay. -/
def Obligations.ParseCommandFaults : Prop :=
  ∀ (s : State) (strict : Bool),
    ((¬ ∃ p fc, AddressForm s.atxt p fc) →
      exec (.parse strict) s =
        .next (faultedWith (BitVec.ofNat 32 (0x8 + 0x20 * strict.toNat)) 2 0 s)) ∧
    (∀ p fc, AddressForm s.atxt p fc → strict = true → 2097151 < decimalSum p →
      exec (.parse strict) s = .next (faultedWith 0x28#32 3 0 s))

/-- R185, R187, R191, R192: TLEN and NLEN leave the predicted word count, for every value of the registers
and of PAD_STRICT. -/
def Obligations.LengthCommandsPredict : Prop :=
  ∀ s : State,
    exec .tlen s = .next (done 0x9#32
      (BitVec.ofNat 32
        (transmissionCount s.params.padStrict false s.ridx.toNat s.addr s.nch.toNat)) s) ∧
    exec .nlen s = .next (done 0xA#32
      (BitVec.ofNat 32
        (transmissionCount s.params.padStrict true s.ridx.toNat s.addr s.nch.toNat)) s) ∧
    transmissionCount s.params.padStrict false s.ridx.toNat s.addr s.nch.toNat < 2 ^ 32

/-! ### The framer (45_framer.md) -/

/-- R188: the predictor and the framer agree exactly, for every input and both values of PAD_STRICT. -/
def Obligations.PredictedLengthIsTheTransmissionLength : Prop :=
  ∀ (p : Config.Params) (num : Bool) (ridx : Nat) (address : BitVec 21) (fc : BitVec 2) (t : List Byte),
    (encodeTransmission p num ridx address fc t).length =
      msgLen p.padStrict (if num then 4 else 7) ridx address t.length

/-- R216: from the sync word on, a transmission is a multiple of 17 words; the whole is
17·batches(n) + 18 for repeat index 0 and 17·batches(n) otherwise. -/
def Obligations.TransmissionIsAMultipleOf17 : Prop :=
  ∀ (p : Config.Params) (num : Bool) (ridx : Nat) (address : BitVec 21) (fc : BitVec 2) (t : List Byte),
    (framed p num address fc t).length % 17 = 0 ∧
    (encodeTransmission p num ridx address fc t).length =
      transmissionCount p.padStrict num ridx address t.length

/-- R217: the framed part is whole 17-word blocks. Every block starts with SYNC, for PAD_STRICT = 0 and, as
R213 and R215 imply, for PAD_STRICT = 1 with a body that is no multiple of 17 words. With PAD_STRICT = 1 and
a body that is one, the last block is 17 IDLE words and every block before it starts with SYNC. -/
def Obligations.EveryBatchStartsWithSync : Prop :=
  ∀ (p : Config.Params) (num : Bool) (address : BitVec 21) (fc : BitVec 2) (t : List Byte),
    (framed p num address fc t).length % 17 = 0 ∧
    ((p.padStrict = false ∨ (framedBody p num address fc t).length % 17 ≠ 0) →
      ∀ k, 17 * k < (framed p num address fc t).length →
        (framed p num address fc t)[17 * k]? = some 0x7CD215D8#32) ∧
    (p.padStrict = true → (framedBody p num address fc t).length % 17 = 0 →
      framed p num address fc t =
        framedBody p num address fc t ++ List.replicate 17 0x7A89C197#32 ∧
      ∀ k, 17 * k < (framedBody p num address fc t).length →
        (framed p num address fc t)[17 * k]? = some 0x7CD215D8#32)

/-- R181, R96, R212: after SYNC come 2f IDLE words for frame f, then the address word, with flag 0, the
batch address in bits 30:13 and the function code in bits 12:11. -/
def Obligations.AddressWordStandsInItsFrame : Prop :=
  ∀ (p : Config.Params) (num : Bool) (address : BitVec 21) (fc : BitVec 2) (t : List Byte),
    (framed p num address fc t)[0]? = some 0x7CD215D8#32 ∧
    (∀ k, 1 ≤ k → k ≤ 2 * (address.toNat % 8) →
      (framed p num address fc t)[k]? = some 0x7A89C197#32) ∧
    ∃ w : Word, (framed p num address fc t)[2 * (address.toNat % 8) + 1]? = some w ∧
      flag w = false ∧ w.extractLsb' 13 18 = address.extractLsb' 3 18 ∧ w.extractLsb' 11 2 = fc ∧
      encodeCodeword (w.extractLsb' 11 21) = w

/-- The message words of a transmission carry exactly the bit sequence the packer makes of the text (R154,
R155), in order, and fewer than 20 zero pad bits: framing drops, moves and alters no bit of it. -/
def Obligations.TransmissionCarriesTheText : Prop :=
  ∀ (p : Config.Params) (num : Bool) (address : BitVec 21) (fc : BitVec 2) (t : List Byte),
    ∃ z, z < 20 ∧
      carriedBits (framed p num address fc t) = textBits p.numTab num t ++ List.replicate z false

/-- R218: ETX appends one transmission and leaves its length in RES, the length TLEN or NLEN predicts. -/
def Obligations.TransmitCommandAppendsATransmission : Prop :=
  ∀ (s : State) (num strict : Bool),
    (strict = true → Mappable num s.mtxt) →
    s.outw.length + transmissionCount s.params.padStrict num s.ridx.toNat s.addr s.mtxt.length ≤
      s.params.outCap →
    exec (.etx num strict) s = .next
      { done (BitVec.ofNat 32 (0xB + 0x10 * num.toNat + 0x20 * strict.toNat))
          (BitVec.ofNat 32
            (transmissionCount s.params.padStrict num s.ridx.toNat s.addr s.mtxt.length)) s with
        outw := s.outw ++ encodeTransmission s.params num s.ridx.toNat s.addr s.fc s.mtxt }

/-- R161, R162, R218, R288, R290, R292: PACKA, PACKN and ETX fault with BAD_CHAR first (strict mode), then with
OVERFLOW, and append nothing. -/
def Obligations.AppendingCommandsFaultWhole : Prop :=
  ∀ (s : State) (strict num : Bool) (off : BitVec 4),
    (strict = true → ¬ Mappable false s.mtxt →
      exec (.packa strict off) s =
        .next (faultedWith (BitVec.ofNat 32 (0x25 + 0x100 * off.toNat)) 5 0 s)) ∧
    ((strict = true → Mappable false s.mtxt) →
      s.params.outCap < s.outw.length + packedCount (7 * s.mtxt.length) off.toNat →
      exec (.packa strict off) s =
        .next (faultedWith (BitVec.ofNat 32 (0x5 + 0x20 * strict.toNat + 0x100 * off.toNat)) 7 0 s)) ∧
    (strict = true → ¬ Mappable true s.mtxt →
      exec (.packn strict off) s =
        .next (faultedWith (BitVec.ofNat 32 (0x26 + 0x100 * off.toNat)) 5 0 s)) ∧
    ((strict = true → Mappable true s.mtxt) →
      s.params.outCap < s.outw.length + packedCount (4 * s.mtxt.length) off.toNat →
      exec (.packn strict off) s =
        .next (faultedWith (BitVec.ofNat 32 (0x6 + 0x20 * strict.toNat + 0x100 * off.toNat)) 7 0 s)) ∧
    (strict = true → ¬ Mappable num s.mtxt →
      exec (.etx num strict) s = .next (faultedWith (BitVec.ofNat 32 (0x2B + 0x10 * num.toNat)) 5 0 s)) ∧
    ((strict = true → Mappable num s.mtxt) →
      s.params.outCap < s.outw.length +
        transmissionCount s.params.padStrict num s.ridx.toNat s.addr s.mtxt.length →
      exec (.etx num strict) s = .next
        (faultedWith (BitVec.ofNat 32 (0xB + 0x10 * num.toNat + 0x20 * strict.toNat)) 7 0 s))

/-! ### Batches and bytes (46_batch.md) -/

/-- R230 to R232, R237: a BATCH whose messages are all accepted and fit OUT_CAP replaces OUTW by one
preamble and every message's transmission RC times in a row, OUTB by its bytes, and leaves the word
count in RES; nothing else changes. -/
def Obligations.BatchEncodesTheWholeQueue : Prop :=
  ∀ (s : State) (strict supinv : Bool) (rc : BitVec 8),
    (strict = true → s.msgq ≠ []) →
    (∀ m ∈ s.msgq, Accepted strict m) →
    (batchStream s.params rc.toNat s.msgq).length ≤ s.params.outCap →
    exec (.batch strict supinv rc) s = .next
      { done (batchWord strict supinv rc)
          (BitVec.ofNat 32 (batchStream s.params rc.toNat s.msgq).length) s with
        outw := batchStream s.params rc.toNat s.msgq,
        outb := serialize (batchStream s.params rc.toNat s.msgq) supinv }

/-- R236, R283, R292: a BATCH stops at its first failing message, whatever follows it: OUTW and OUTB hold
the earlier messages' output, FIDX is the message's index, RES stays. -/
def Obligations.BatchStopsAtTheFirstFailure : Prop :=
  ∀ (s : State) (strict supinv : Bool) (rc : BitVec 8) (before after : List Message) (m : Message)
    (c : FaultCode),
    s.msgq.length ≤ 256 →
    s.msgq = before ++ m :: after →
    (∀ x ∈ before, Accepted strict x) →
    (batchStream s.params rc.toNat before).length ≤ s.params.outCap →
    (parseAddress strict m.addressText = .error c ∨
      ((∃ x, parseAddress strict m.addressText = .ok x) ∧ strict = true ∧
        ¬ Mappable m.isNumeric m.messageText ∧ c = .badChar) ∨
      (Accepted strict m ∧ s.params.outCap < (batchStream s.params rc.toNat (before ++ [m])).length ∧
        c = .overflow)) →
    exec (.batch strict supinv rc) s = .next
      { faultedWith (batchWord strict supinv rc) c.code.toNat before.length s with
        outw := batchStream s.params rc.toNat before,
        outb := serialize (batchStream s.params rc.toNat before) supinv }

/-- R235, R287: BATCH of an empty queue gives empty output, and in strict mode faults with EMPTY_LIST. -/
def Obligations.BatchOfAnEmptyQueue : Prop :=
  ∀ (s : State) (supinv : Bool) (rc : BitVec 8), s.msgq = [] →
    exec (.batch false supinv rc) s = .next
      { done (batchWord false supinv rc) 0#32 s with outw := [], outb := [] } ∧
    exec (.batch true supinv rc) s = .next
      { faultedWith (batchWord true supinv rc) 4 0 s with outw := [], outb := [] }

/-- R326: the word count of a BATCH is the sum of its transmissions' predicted lengths, with the preamble
counted once. -/
def Obligations.BatchWordCount : Prop :=
  ∀ (p : Config.Params) (rc : Nat) (q : List Message),
    (batchStream p rc q).length =
      (if rc = 0 ∨ q = [] then 0 else 18) +
        (q.map fun m =>
          rc * framedCount p.padStrict m.isNumeric (addressOf m.addressText).1 m.messageText.length).sum

/-- R62, R63, R233: the byte stream: 4 bytes a word, most significant byte first, each bit inverted unless
SUPINV = 1. -/
def Obligations.SerializationIsBigEndian : Prop :=
  ∀ (ws : List Word) (supinv : Bool),
    (serialize ws supinv).length = 4 * ws.length ∧
    ∀ (k : Nat) (w : Word), ws[k]? = some w →
      ∀ b, b < 4 → ∃ y : Byte, (serialize ws supinv)[4 * k + b]? = some y ∧
        ∀ j, j < 8 → y.getLsbD j = (w.getLsbD (8 * (3 - b) + j) ^^ !supinv)

/-- R238: SER leaves OUTW's byte stream in OUTB and the word count in RES, and OUTW unchanged; SER.U's
stream is the complement of SER's (log 7, log 10). -/
def Obligations.SerializeCommand : Prop :=
  ∀ (s : State) (supinv : Bool),
    ∃ bytes : List Byte,
      exec (.ser supinv) s = .next
        { done (BitVec.ofNat 32 (0xD + 0x40 * supinv.toNat)) (BitVec.ofNat 32 s.outw.length) s with
          outb := bytes } ∧
      bytes.length = 4 * s.outw.length ∧
      bytes.map (fun b => ~~~b) = serialize s.outw (!supinv)
end

