-- ==== Sys2Proof/Laws/State.lean ====
section
/-! SUPPORT. Laws/State.lean: what each named update of the state leaves in each field, true by rfl, so that
no later proof unfolds an update. -/

namespace Sys2Proof.Machine

@[simp] theorem State.setRes_data (v : Word) (s : State) : (s.setRes v).data = s.data := rfl
@[simp] theorem State.setRes_px (v : Word) (s : State) : (s.setRes v).px = s.px := rfl
@[simp] theorem State.setRes_addr (v : Word) (s : State) : (s.setRes v).addr = s.addr := rfl
@[simp] theorem State.setRes_fc (v : Word) (s : State) : (s.setRes v).fc = s.fc := rfl
@[simp] theorem State.setRes_ridx (v : Word) (s : State) : (s.setRes v).ridx = s.ridx := rfl
@[simp] theorem State.setRes_nch (v : Word) (s : State) : (s.setRes v).nch = s.nch := rfl
@[simp] theorem State.setRes_char (v : Word) (s : State) : (s.setRes v).char = s.char := rfl
@[simp] theorem State.setRes_res (v : Word) (s : State) : (s.setRes v).res = v := rfl
@[simp] theorem State.setRes_status (v : Word) (s : State) : (s.setRes v).status = s.status := rfl
@[simp] theorem State.setRes_sticky (v : Word) (s : State) : (s.setRes v).sticky = s.sticky := rfl
@[simp] theorem State.setRes_lastcmd (v : Word) (s : State) : (s.setRes v).lastcmd = s.lastcmd := rfl
@[simp] theorem State.setRes_atxt (v : Word) (s : State) : (s.setRes v).atxt = s.atxt := rfl
@[simp] theorem State.setRes_mtxt (v : Word) (s : State) : (s.setRes v).mtxt = s.mtxt := rfl
@[simp] theorem State.setRes_msgq (v : Word) (s : State) : (s.setRes v).msgq = s.msgq := rfl
@[simp] theorem State.setRes_outw (v : Word) (s : State) : (s.setRes v).outw = s.outw := rfl
@[simp] theorem State.setRes_outb (v : Word) (s : State) : (s.setRes v).outb = s.outb := rfl
@[simp] theorem State.setRes_port (v : Word) (s : State) : (s.setRes v).port = s.port := rfl
@[simp] theorem State.setRes_reply (v : Word) (s : State) : (s.setRes v).reply = s.reply := rfl
@[simp] theorem State.setRes_params (v : Word) (s : State) : (s.setRes v).params = s.params := rfl

@[simp] theorem State.setReply_data (r : Reply) (s : State) : (s.setReply r).data = s.data := rfl
@[simp] theorem State.setReply_px (r : Reply) (s : State) : (s.setReply r).px = s.px := rfl
@[simp] theorem State.setReply_addr (r : Reply) (s : State) : (s.setReply r).addr = s.addr := rfl
@[simp] theorem State.setReply_fc (r : Reply) (s : State) : (s.setReply r).fc = s.fc := rfl
@[simp] theorem State.setReply_ridx (r : Reply) (s : State) : (s.setReply r).ridx = s.ridx := rfl
@[simp] theorem State.setReply_nch (r : Reply) (s : State) : (s.setReply r).nch = s.nch := rfl
@[simp] theorem State.setReply_char (r : Reply) (s : State) : (s.setReply r).char = s.char := rfl
@[simp] theorem State.setReply_res (r : Reply) (s : State) : (s.setReply r).res = s.res := rfl
@[simp] theorem State.setReply_status (r : Reply) (s : State) : (s.setReply r).status = s.status := rfl
@[simp] theorem State.setReply_sticky (r : Reply) (s : State) : (s.setReply r).sticky = s.sticky := rfl
@[simp] theorem State.setReply_lastcmd (r : Reply) (s : State) : (s.setReply r).lastcmd = s.lastcmd := rfl
@[simp] theorem State.setReply_atxt (r : Reply) (s : State) : (s.setReply r).atxt = s.atxt := rfl
@[simp] theorem State.setReply_mtxt (r : Reply) (s : State) : (s.setReply r).mtxt = s.mtxt := rfl
@[simp] theorem State.setReply_msgq (r : Reply) (s : State) : (s.setReply r).msgq = s.msgq := rfl
@[simp] theorem State.setReply_outw (r : Reply) (s : State) : (s.setReply r).outw = s.outw := rfl
@[simp] theorem State.setReply_outb (r : Reply) (s : State) : (s.setReply r).outb = s.outb := rfl
@[simp] theorem State.setReply_port (r : Reply) (s : State) : (s.setReply r).port = s.port := rfl
@[simp] theorem State.setReply_reply (r : Reply) (s : State) : (s.setReply r).reply = r := rfl
@[simp] theorem State.setReply_params (r : Reply) (s : State) : (s.setReply r).params = s.params := rfl

@[simp] theorem State.latchWord_data (c : Word) (s : State) : (s.latchWord c).data = s.data := rfl
@[simp] theorem State.latchWord_px (c : Word) (s : State) : (s.latchWord c).px = s.px := rfl
@[simp] theorem State.latchWord_addr (c : Word) (s : State) : (s.latchWord c).addr = s.addr := rfl
@[simp] theorem State.latchWord_fc (c : Word) (s : State) : (s.latchWord c).fc = s.fc := rfl
@[simp] theorem State.latchWord_ridx (c : Word) (s : State) : (s.latchWord c).ridx = s.ridx := rfl
@[simp] theorem State.latchWord_nch (c : Word) (s : State) : (s.latchWord c).nch = s.nch := rfl
@[simp] theorem State.latchWord_char (c : Word) (s : State) : (s.latchWord c).char = s.char := rfl
@[simp] theorem State.latchWord_res (c : Word) (s : State) : (s.latchWord c).res = s.res := rfl
@[simp] theorem State.latchWord_status (c : Word) (s : State) : (s.latchWord c).status = s.status := rfl
@[simp] theorem State.latchWord_sticky (c : Word) (s : State) : (s.latchWord c).sticky = s.sticky := rfl
@[simp] theorem State.latchWord_lastcmd (c : Word) (s : State) : (s.latchWord c).lastcmd = c := rfl
@[simp] theorem State.latchWord_atxt (c : Word) (s : State) : (s.latchWord c).atxt = s.atxt := rfl
@[simp] theorem State.latchWord_mtxt (c : Word) (s : State) : (s.latchWord c).mtxt = s.mtxt := rfl
@[simp] theorem State.latchWord_msgq (c : Word) (s : State) : (s.latchWord c).msgq = s.msgq := rfl
@[simp] theorem State.latchWord_outw (c : Word) (s : State) : (s.latchWord c).outw = s.outw := rfl
@[simp] theorem State.latchWord_outb (c : Word) (s : State) : (s.latchWord c).outb = s.outb := rfl
@[simp] theorem State.latchWord_port (c : Word) (s : State) : (s.latchWord c).port = s.port := rfl
@[simp] theorem State.latchWord_reply (c : Word) (s : State) : (s.latchWord c).reply = s.reply := rfl
@[simp] theorem State.latchWord_params (c : Word) (s : State) : (s.latchWord c).params = s.params := rfl

@[simp] theorem beginCommand_data (i : Instr) (s : State) : (beginCommand i s).data = s.data := rfl
@[simp] theorem beginCommand_px (i : Instr) (s : State) : (beginCommand i s).px = s.px := rfl
@[simp] theorem beginCommand_addr (i : Instr) (s : State) : (beginCommand i s).addr = s.addr := rfl
@[simp] theorem beginCommand_fc (i : Instr) (s : State) : (beginCommand i s).fc = s.fc := rfl
@[simp] theorem beginCommand_ridx (i : Instr) (s : State) : (beginCommand i s).ridx = s.ridx := rfl
@[simp] theorem beginCommand_nch (i : Instr) (s : State) : (beginCommand i s).nch = s.nch := rfl
@[simp] theorem beginCommand_char (i : Instr) (s : State) : (beginCommand i s).char = s.char := rfl
@[simp] theorem beginCommand_res (i : Instr) (s : State) : (beginCommand i s).res = s.res := rfl
@[simp] theorem beginCommand_status (i : Instr) (s : State) : (beginCommand i s).status = s.status := rfl
@[simp] theorem beginCommand_sticky (i : Instr) (s : State) : (beginCommand i s).sticky = s.sticky := rfl
@[simp] theorem beginCommand_lastcmd (i : Instr) (s : State) : (beginCommand i s).lastcmd = i.commandWord.getD 0#32 := rfl
@[simp] theorem beginCommand_atxt (i : Instr) (s : State) : (beginCommand i s).atxt = s.atxt := rfl
@[simp] theorem beginCommand_mtxt (i : Instr) (s : State) : (beginCommand i s).mtxt = s.mtxt := rfl
@[simp] theorem beginCommand_msgq (i : Instr) (s : State) : (beginCommand i s).msgq = s.msgq := rfl
@[simp] theorem beginCommand_outw (i : Instr) (s : State) : (beginCommand i s).outw = s.outw := rfl
@[simp] theorem beginCommand_outb (i : Instr) (s : State) : (beginCommand i s).outb = s.outb := rfl
@[simp] theorem beginCommand_port (i : Instr) (s : State) : (beginCommand i s).port = s.port := rfl
@[simp] theorem beginCommand_reply (i : Instr) (s : State) : (beginCommand i s).reply = s.reply := rfl
@[simp] theorem beginCommand_params (i : Instr) (s : State) : (beginCommand i s).params = s.params := rfl

@[simp] theorem State.clearStatus_data (s : State) : (s.clearStatus).data = s.data := rfl
@[simp] theorem State.clearStatus_px (s : State) : (s.clearStatus).px = s.px := rfl
@[simp] theorem State.clearStatus_addr (s : State) : (s.clearStatus).addr = s.addr := rfl
@[simp] theorem State.clearStatus_fc (s : State) : (s.clearStatus).fc = s.fc := rfl
@[simp] theorem State.clearStatus_ridx (s : State) : (s.clearStatus).ridx = s.ridx := rfl
@[simp] theorem State.clearStatus_nch (s : State) : (s.clearStatus).nch = s.nch := rfl
@[simp] theorem State.clearStatus_char (s : State) : (s.clearStatus).char = s.char := rfl
@[simp] theorem State.clearStatus_res (s : State) : (s.clearStatus).res = s.res := rfl
@[simp] theorem State.clearStatus_status (s : State) : (s.clearStatus).status = statusWord 0#4 0#16 := rfl
@[simp] theorem State.clearStatus_sticky (s : State) : (s.clearStatus).sticky = s.sticky := rfl
@[simp] theorem State.clearStatus_lastcmd (s : State) : (s.clearStatus).lastcmd = s.lastcmd := rfl
@[simp] theorem State.clearStatus_atxt (s : State) : (s.clearStatus).atxt = s.atxt := rfl
@[simp] theorem State.clearStatus_mtxt (s : State) : (s.clearStatus).mtxt = s.mtxt := rfl
@[simp] theorem State.clearStatus_msgq (s : State) : (s.clearStatus).msgq = s.msgq := rfl
@[simp] theorem State.clearStatus_outw (s : State) : (s.clearStatus).outw = s.outw := rfl
@[simp] theorem State.clearStatus_outb (s : State) : (s.clearStatus).outb = s.outb := rfl
@[simp] theorem State.clearStatus_port (s : State) : (s.clearStatus).port = s.port := rfl
@[simp] theorem State.clearStatus_reply (s : State) : (s.clearStatus).reply = s.reply := rfl
@[simp] theorem State.clearStatus_params (s : State) : (s.clearStatus).params = s.params := rfl

@[simp] theorem State.recordFault_data (c : FaultCode) (x : BitVec 16) (s : State) : (s.recordFault c x).data = s.data := rfl
@[simp] theorem State.recordFault_px (c : FaultCode) (x : BitVec 16) (s : State) : (s.recordFault c x).px = s.px := rfl
@[simp] theorem State.recordFault_addr (c : FaultCode) (x : BitVec 16) (s : State) : (s.recordFault c x).addr = s.addr := rfl
@[simp] theorem State.recordFault_fc (c : FaultCode) (x : BitVec 16) (s : State) : (s.recordFault c x).fc = s.fc := rfl
@[simp] theorem State.recordFault_ridx (c : FaultCode) (x : BitVec 16) (s : State) : (s.recordFault c x).ridx = s.ridx := rfl
@[simp] theorem State.recordFault_nch (c : FaultCode) (x : BitVec 16) (s : State) : (s.recordFault c x).nch = s.nch := rfl
@[simp] theorem State.recordFault_char (c : FaultCode) (x : BitVec 16) (s : State) : (s.recordFault c x).char = s.char := rfl
@[simp] theorem State.recordFault_res (c : FaultCode) (x : BitVec 16) (s : State) : (s.recordFault c x).res = s.res := rfl
@[simp] theorem State.recordFault_status (c : FaultCode) (x : BitVec 16) (s : State) : (s.recordFault c x).status = statusWord c.code x := rfl
@[simp] theorem State.recordFault_sticky (c : FaultCode) (x : BitVec 16) (s : State) : (s.recordFault c x).sticky = s.sticky ||| stickyBit c := rfl
@[simp] theorem State.recordFault_lastcmd (c : FaultCode) (x : BitVec 16) (s : State) : (s.recordFault c x).lastcmd = s.lastcmd := rfl
@[simp] theorem State.recordFault_atxt (c : FaultCode) (x : BitVec 16) (s : State) : (s.recordFault c x).atxt = s.atxt := rfl
@[simp] theorem State.recordFault_mtxt (c : FaultCode) (x : BitVec 16) (s : State) : (s.recordFault c x).mtxt = s.mtxt := rfl
@[simp] theorem State.recordFault_msgq (c : FaultCode) (x : BitVec 16) (s : State) : (s.recordFault c x).msgq = s.msgq := rfl
@[simp] theorem State.recordFault_outw (c : FaultCode) (x : BitVec 16) (s : State) : (s.recordFault c x).outw = s.outw := rfl
@[simp] theorem State.recordFault_outb (c : FaultCode) (x : BitVec 16) (s : State) : (s.recordFault c x).outb = s.outb := rfl
@[simp] theorem State.recordFault_port (c : FaultCode) (x : BitVec 16) (s : State) : (s.recordFault c x).port = s.port := rfl
@[simp] theorem State.recordFault_reply (c : FaultCode) (x : BitVec 16) (s : State) : (s.recordFault c x).reply = s.reply := rfl
@[simp] theorem State.recordFault_params (c : FaultCode) (x : BitVec 16) (s : State) : (s.recordFault c x).params = s.params := rfl

@[simp] theorem writeBatch_data (ws : List Word) (u : Bool) (s : State) : (writeBatch ws u s).data = s.data := rfl
@[simp] theorem writeBatch_px (ws : List Word) (u : Bool) (s : State) : (writeBatch ws u s).px = s.px := rfl
@[simp] theorem writeBatch_addr (ws : List Word) (u : Bool) (s : State) : (writeBatch ws u s).addr = s.addr := rfl
@[simp] theorem writeBatch_fc (ws : List Word) (u : Bool) (s : State) : (writeBatch ws u s).fc = s.fc := rfl
@[simp] theorem writeBatch_ridx (ws : List Word) (u : Bool) (s : State) : (writeBatch ws u s).ridx = s.ridx := rfl
@[simp] theorem writeBatch_nch (ws : List Word) (u : Bool) (s : State) : (writeBatch ws u s).nch = s.nch := rfl
@[simp] theorem writeBatch_char (ws : List Word) (u : Bool) (s : State) : (writeBatch ws u s).char = s.char := rfl
@[simp] theorem writeBatch_res (ws : List Word) (u : Bool) (s : State) : (writeBatch ws u s).res = s.res := rfl
@[simp] theorem writeBatch_status (ws : List Word) (u : Bool) (s : State) : (writeBatch ws u s).status = s.status := rfl
@[simp] theorem writeBatch_sticky (ws : List Word) (u : Bool) (s : State) : (writeBatch ws u s).sticky = s.sticky := rfl
@[simp] theorem writeBatch_lastcmd (ws : List Word) (u : Bool) (s : State) : (writeBatch ws u s).lastcmd = s.lastcmd := rfl
@[simp] theorem writeBatch_atxt (ws : List Word) (u : Bool) (s : State) : (writeBatch ws u s).atxt = s.atxt := rfl
@[simp] theorem writeBatch_mtxt (ws : List Word) (u : Bool) (s : State) : (writeBatch ws u s).mtxt = s.mtxt := rfl
@[simp] theorem writeBatch_msgq (ws : List Word) (u : Bool) (s : State) : (writeBatch ws u s).msgq = s.msgq := rfl
@[simp] theorem writeBatch_outw (ws : List Word) (u : Bool) (s : State) : (writeBatch ws u s).outw = ws := rfl
@[simp] theorem writeBatch_outb (ws : List Word) (u : Bool) (s : State) : (writeBatch ws u s).outb = serialize ws u := rfl
@[simp] theorem writeBatch_port (ws : List Word) (u : Bool) (s : State) : (writeBatch ws u s).port = s.port := rfl
@[simp] theorem writeBatch_reply (ws : List Word) (u : Bool) (s : State) : (writeBatch ws u s).reply = s.reply := rfl
@[simp] theorem writeBatch_params (ws : List Word) (u : Bool) (s : State) : (writeBatch ws u s).params = s.params := rfl

end Sys2Proof.Machine
end

