-- ==== Sys2Proof/Laws/Ops.lean ====
section
/-! SUPPORT. Laws/Ops.lean: for each shared operation, the lemmas that say once everything it can do. -/

namespace Sys2Proof.Machine

/-! The ends of a transaction: the next state, field by field. -/

theorem complete_next (s : State) :
    complete s = .next { s with status := 0#32, reply := .nothing } := rfl

theorem completeWith_next (v : Word) (s : State) :
    completeWith v s = .next { s with res := v, status := 0#32, reply := .nothing } := rfl

theorem answer_next (r : Reply) (s : State) : answer r s = .next { s with reply := r } := rfl

theorem raise_next (c : FaultCode) (x : BitVec 16) (s : State) :
    raise c x s = .next { s with status := statusWord c.code x, sticky := s.sticky ||| stickyBit c,
                                 reply := .nothing } := rfl

theorem refuse_next (c : FaultCode) (s : State) :
    refuse c s = .next { s with status := statusWord c.code 0#16, sticky := s.sticky ||| stickyBit c,
                                reply := .nothing } := rfl

theorem appendWords_next_of_fits {ws : List Word} {s : State}
    (h : s.outw.length + ws.length ≤ s.params.outCap) :
    appendWords ws s = .next { s with outw := s.outw ++ ws, res := BitVec.ofNat 32 ws.length,
                                      status := 0#32, reply := .nothing } := by
  rw [appendWords, if_neg (by omega)]
  rfl

theorem appendWords_next_of_overflow {ws : List Word} {s : State}
    (h : s.params.outCap < s.outw.length + ws.length) :
    appendWords ws s = .next { s with status := statusWord 7#4 0#16,
                                      sticky := s.sticky ||| stickyBit .overflow,
                                      reply := .nothing } := by
  rw [appendWords, if_pos h]
  rfl

/-- What appending can do: it fits and the words land, or nothing but the fault record changes. -/
theorem appendWords_cases {ws : List Word} {s t : State} (h : appendWords ws s = .next t) :
    (s.outw.length + ws.length ≤ s.params.outCap ∧
      t = { s with outw := s.outw ++ ws, res := BitVec.ofNat 32 ws.length, status := 0#32,
                   reply := .nothing }) ∨
    (s.params.outCap < s.outw.length + ws.length ∧
      t = { s with status := statusWord 7#4 0#16, sticky := s.sticky ||| stickyBit .overflow,
                   reply := .nothing }) := by
  by_cases hc : s.params.outCap < s.outw.length + ws.length
  · rw [appendWords_next_of_overflow hc] at h
    exact .inr ⟨hc, (Host.Outcome.next.inj h).symm⟩
  · rw [appendWords_next_of_fits (by omega)] at h
    exact .inl ⟨by omega, (Host.Outcome.next.inj h).symm⟩

/-! STATUS and STICKY (R30, R31). -/

/-- The codes of R280. -/
theorem faultCode_code_toNat (c : FaultCode) : 1 ≤ c.code.toNat ∧ c.code.toNat ≤ 8 := by
  cases c <;> decide

theorem errField_statusWord (e : BitVec 4) (x : BitVec 16) : errField (statusWord e x) = e := by
  apply BitVec.eq_of_getLsbD_eq
  intro i hi
  have h8 : i < 8 := by omega
  have h32 : i < 32 := by omega
  simp [errField, statusWord, hi, h8, h32]

theorem fidxField_statusWord (e : BitVec 4) (x : BitVec 16) : fidxField (statusWord e x) = x := by
  apply BitVec.eq_of_getLsbD_eq
  intro i hi
  have h8 : ¬ 8 + i < 8 := by omega
  have he : e.getLsbD (8 + i) = false := BitVec.getLsbD_of_ge _ _ (by omega)
  have h32 : 8 + i < 32 := by omega
  simp [fidxField, statusWord, hi, he, h32]

/-- STICKY's bit of a fault is the bit its code numbers. -/
theorem stickyBit_getLsbD (c : FaultCode) (k : Nat) :
    (stickyBit c).getLsbD k = decide (k = c.code.toNat) := by
  by_cases hk : k < 32
  · interval_cases k <;> cases c <;> decide
  · rw [BitVec.getLsbD_of_ge _ _ (by omega)]
    have := (faultCode_code_toNat c).2
    simp
    omega

/-! Registers by id (R21, R35). -/

theorem writeReg_isSome (reg : BitVec 4) (v : Word) (s : State) :
    (writeReg reg v s).isSome = decide (reg.toNat ≤ 6) := by
  have h : reg.toNat < 16 := reg.isLt
  unfold writeReg
  generalize reg.toNat = n at h
  interval_cases n <;> rfl

/-- A register write touches the seven operand registers alone. -/
theorem writeReg_frame {reg : BitVec 4} {v : Word} {s t : State} (h : writeReg reg v s = some t) :
    t = { s with data := t.data, px := t.px, addr := t.addr, fc := t.fc, ridx := t.ridx, nch := t.nch,
                 char := t.char } := by
  have hr : reg.toNat < 16 := reg.isLt
  unfold writeReg at h
  generalize reg.toNat = n at h hr
  interval_cases n <;> simp at h <;> subst h <;> rfl

/-! The character tests (R152). -/

theorem numericMappable_iff (c : Byte) :
    numericMappable c = true ↔ c ∈ numericAlphabet.map Prod.fst := by
  revert c
  decide +kernel

theorem alphaMappable_iff (c : Byte) : alphaMappable c = true ↔ c.toNat < 0x80 := by
  simp [alphaMappable]
  omega

/-! The address parser and the orchestrator: what each can answer. -/

theorem parseAddress_cases {strict : Bool} {t : List Byte} {r : Except FaultCode (BitVec 21 × BitVec 2)}
    (h : parseAddress strict t = r) :
    (decimal (splitAddress t).1 = none ∧ r = .error .addrSyntax) ∨
    (∃ v, decimal (splitAddress t).1 = some v ∧ strict = true ∧ 2 ^ 21 - 1 < v ∧ r = .error .addrRange) ∨
    (∃ v, decimal (splitAddress t).1 = some v ∧ (strict = true → v ≤ 2 ^ 21 - 1) ∧
      r = .ok (BitVec.ofNat 21 v, (splitAddress t).2)) := by
  subst h
  unfold parseAddress
  cases hd : decimal (splitAddress t).1 with
  | none => exact .inl ⟨rfl, rfl⟩
  | some v =>
    by_cases hc : strict = true ∧ 2 ^ 21 - 1 < v
    · refine .inr (.inl ⟨v, rfl, hc.1, hc.2, ?_⟩)
      simp [hc.1]
      omega
    · refine .inr (.inr ⟨v, rfl, fun hs => by simp only [hs, true_and] at hc; omega, ?_⟩)
      cases strict <;> simp at hc ⊢
      omega

theorem encodeMessage_cases {p : Config.Params} {strict : Bool} {rc idx : Nat} {m : Message}
    {r : Except FaultCode (List Word)} (h : encodeMessage p strict rc idx m = r) :
    (∃ c, parseAddress strict m.addressText = .error c ∧ r = .error c) ∨
    (∃ x, parseAddress strict m.addressText = .ok x ∧ strict = true ∧
      textMappable m.isNumeric m.messageText = false ∧ r = .error .badChar) ∨
    (∃ x, parseAddress strict m.addressText = .ok x ∧
      (strict = true → textMappable m.isNumeric m.messageText = true) ∧
      r = .ok (repeats p rc idx m.isNumeric x.1 x.2 m.messageText)) := by
  subst h
  unfold encodeMessage
  cases hp : parseAddress strict m.addressText with
  | error c => exact .inl ⟨c, rfl, rfl⟩
  | ok x =>
    cases strict <;> cases textMappable m.isNumeric m.messageText <;> simp

/-- The orchestrator never exceeds OUT_CAP, and the fault it reports names a message of the queue. -/
theorem orchestrateFrom_bounds (p : Config.Params) (strict : Bool) (rc : Nat) (q : List Message) :
    ∀ (j idx : Nat) (words : List Word), words.length ≤ p.outCap →
      (orchestrateFrom p strict rc j idx words q).1.length ≤ p.outCap ∧
      ∀ c k, (orchestrateFrom p strict rc j idx words q).2 = some (c, k) → j ≤ k ∧ k < j + q.length := by
  induction q with
  | nil => intro j idx words h; exact ⟨h, by simp [orchestrateFrom]⟩
  | cons m q ih =>
    intro j idx words h
    unfold orchestrateFrom
    cases encodeMessage p strict rc idx m with
    | error c =>
      refine ⟨h, fun c' k hk => ?_⟩
      simp only [Option.some.injEq, Prod.mk.injEq] at hk
      simp only [List.length_cons]
      omega
    | ok mw =>
      by_cases hc : p.outCap < words.length + mw.length
      · simp only [if_pos hc, Option.some.injEq, Prod.mk.injEq, List.length_cons]
        exact ⟨h, fun c k hk => by omega⟩
      · simp only [if_neg hc]
        obtain ⟨h1, h2⟩ := ih (j + 1) (idx + rc) (words ++ mw) (by simp; omega)
        refine ⟨h1, fun c k hk => ?_⟩
        have := h2 c k hk
        simp only [List.length_cons]
        omega

/-- Serialization is 4 bytes a word (R233). -/
theorem serialize_length (ws : List Word) (u : Bool) : (serialize ws u).length = 4 * ws.length := by
  induction ws with
  | nil => rfl
  | cons w ws ih =>
    have : (serialize (w :: ws) u).length = 4 + (serialize ws u).length := by
      rw [serialize, List.flatMap_cons, List.length_append]
      rfl
    rw [this, ih, List.length_cons]
    omega

/-! The packer's loop (R153), one bit at a time. -/

theorem packBits_nil (acc : BitVec 20) (n wpos : Nat) :
    packBits acc n wpos [] = if 0 < n then emitWords (acc <<< (20 - n)) wpos else [] := rfl

theorem packBits_cons (acc : BitVec 20) (n wpos : Nat) (b : Bool) (bits : List Bool) :
    packBits acc n wpos (b :: bits) =
      if n + 1 = 20 then emitWords (shiftIn acc b) wpos ++ packBits 0#20 0 (emitPos wpos) bits
      else packBits (shiftIn acc b) (n + 1) wpos bits := rfl

/-! The step (R250). -/

theorem step_idle {s : State} (h : s.port = []) : step s = .next s := by
  unfold step
  rw [h]

theorem step_record {s : State} {r : HostRecord} {rest : List HostRecord} (h : s.port = r :: rest) :
    step s = performRecord r { s with port := rest } := by
  unfold step
  rw [h]

end Sys2Proof.Machine
end

