-- ==== Sys2Proof/Laws/PerInstr.lean ====
section
/-! SUPPORT. Laws/PerInstr.lean: statements made per instruction. Family `RowMatch`: what an instruction
encodes to lies in its row of spec/opcode_table.json (its `mask` and `match`). -/

namespace Sys2Proof.Laws.RowMatch

/-- The mask and match of the instruction's row of opcode_table.json. -/
def row : Instr → Word × Word
  | .nop => (0xFFFFFFFF#32, 0x00000000#32)
  | .crc => (0xFFFFFFFF#32, 0x00000001#32)
  | .par => (0xFFFFFFFF#32, 0x00000002#32)
  | .cw => (0xFFFFFFFF#32, 0x00000003#32)
  | .digit _ => (0xFFFFFFDF#32, 0x00000004#32)
  | .packa _ _ => (0xFFFFF0DF#32, 0x00000005#32)
  | .packn _ _ => (0xFFFFF0DF#32, 0x00000006#32)
  | .aoff => (0xFFFFFFFF#32, 0x00000007#32)
  | .parse _ => (0xFFFFFFDF#32, 0x00000008#32)
  | .tlen => (0xFFFFFFFF#32, 0x00000009#32)
  | .nlen => (0xFFFFFFFF#32, 0x0000000A#32)
  | .etx _ _ => (0xFFFFFFCF#32, 0x0000000B#32)
  | .batch _ _ _ => (0xFF00FF9F#32, 0x0000000C#32)
  | .ser _ => (0xFFFFFFBF#32, 0x0000000D#32)
  | .clr => (0xFFFFFFFF#32, 0x0000000E#32)
  | .cmd _ => (0xF#32, 0x0#32)
  | .wr _ _ => (0xF#32, 0x1#32)
  | .rd _ => (0xF#32, 0x2#32)
  | .loada _ => (0xF#32, 0x3#32)
  | .loadm _ => (0xF#32, 0x4#32)
  | .push _ _ _ => (0xF#32, 0x5#32)
  | .mclr => (0xF#32, 0x6#32)
  | .readw => (0xF#32, 0x7#32)
  | .readb => (0xF#32, 0x8#32)
  | .reset => (0xF#32, 0x9#32)

/-- A command word or a record's kind field matches the row: "(c & mask) == match". -/
def Statement (i : Instr) : Prop :=
  match encode i with
  | .command w => w &&& (row i).1 = (row i).2
  | .record r => r.kind.setWidth 32 &&& (row i).1 = (row i).2

theorem nop : Statement .nop := by
  show (_ : Word) = _
  decide

theorem crc : Statement .crc := by
  show (_ : Word) = _
  decide

theorem par : Statement .par := by
  show (_ : Word) = _
  decide

theorem cw : Statement .cw := by
  show (_ : Word) = _
  decide

theorem digit (strict : Bool) : Statement (.digit strict) := by
  show (_ : Word) = _
  revert strict
  decide +kernel

theorem packa (strict : Bool) (off : BitVec 4) : Statement (.packa strict off) := by
  show (_ : Word) = _
  revert strict off
  decide +kernel

theorem packn (strict : Bool) (off : BitVec 4) : Statement (.packn strict off) := by
  show (_ : Word) = _
  revert strict off
  decide +kernel

theorem aoff : Statement .aoff := by
  show (_ : Word) = _
  decide

theorem parse (strict : Bool) : Statement (.parse strict) := by
  show (_ : Word) = _
  revert strict
  decide +kernel

theorem tlen : Statement .tlen := by
  show (_ : Word) = _
  decide

theorem nlen : Statement .nlen := by
  show (_ : Word) = _
  decide

theorem etx (num : Bool) (strict : Bool) : Statement (.etx num strict) := by
  show (_ : Word) = _
  revert num strict
  decide +kernel

theorem batch (strict : Bool) (supinv : Bool) (rc : BitVec 8) : Statement (.batch strict supinv rc) := by
  show (_ : Word) = _
  revert strict supinv rc
  decide +kernel

theorem ser (supinv : Bool) : Statement (.ser supinv) := by
  show (_ : Word) = _
  revert supinv
  decide +kernel

theorem clr : Statement .clr := by
  show (_ : Word) = _
  decide

theorem cmd (word : Word) : Statement (.cmd word) := by
  show ((0#4).setWidth 32 &&& 0xF#32 : Word) = 0x0#32
  decide

theorem wr (reg : BitVec 4) (value : Word) : Statement (.wr reg value) := by
  show ((1#4).setWidth 32 &&& 0xF#32 : Word) = 0x1#32
  decide

theorem rd (reg : BitVec 4) : Statement (.rd reg) := by
  show ((2#4).setWidth 32 &&& 0xF#32 : Word) = 0x2#32
  decide

theorem loada (bytes : List Byte) : Statement (.loada bytes) := by
  show ((3#4).setWidth 32 &&& 0xF#32 : Word) = 0x3#32
  decide

theorem loadm (bytes : List Byte) : Statement (.loadm bytes) := by
  show ((4#4).setWidth 32 &&& 0xF#32 : Word) = 0x4#32
  decide

theorem push (n : Bool) (a : List Byte) (m : List Byte) : Statement (.push n a m) := by
  show ((5#4).setWidth 32 &&& 0xF#32 : Word) = 0x5#32
  decide

theorem mclr : Statement .mclr := by
  show (_ : Word) = _
  decide

theorem readw : Statement .readw := by
  show (_ : Word) = _
  decide

theorem readb : Statement .readb := by
  show (_ : Word) = _
  decide

theorem reset : Statement .reset := by
  show (_ : Word) = _
  decide

end Sys2Proof.Laws.RowMatch
end

