-- ==== Sys2Proof/Machine/Assembler.lean ====
section
/-! DEFINITION. Assembler.lean: the assembler notation of 30_encoding.md R101 to R104: one line is one
command, one host transaction or one pseudo-instruction; a program is a list of lines. It is notation and
has no effect on the machine (92_eei_decisions.md D31). DESIGN CHOICE (log 18): the lexical details R101 to
R103 leave open. -/

namespace Sys2Proof.Machine

/-- A token of a line: a bare word (mnemonic, register, number), a string's bytes, or a comma. -/
inductive Token where
  | word (cs : List Char)
  | text (bs : List Byte)
  | comma
  deriving DecidableEq, Repr

/-- What the lexer is inside of: nothing, a bare word or a string (characters so far, last first). -/
inductive LexMode where
  | between
  | inWord (rev : List Char)
  | inText (rev : List Byte)
  deriving DecidableEq, Repr

/-- The value of a hexadecimal digit. -/
def hexDigit (c : Char) : Option Nat :=
  if '0' ≤ c ∧ c ≤ '9' then some (c.toNat - '0'.toNat)
  else if 'a' ≤ c ∧ c ≤ 'f' then some (c.toNat - 'a'.toNat + 10)
  else if 'A' ≤ c ∧ c ≤ 'F' then some (c.toNat - 'A'.toNat + 10)
  else none

/-- The token the lexer ends when it leaves a bare word. -/
def flushWord : LexMode → List Token
  | .inWord rev => [.word rev.reverse]
  | .between => []
  | .inText _ => []

/-- The tokens of a line. A string is double-quoted ASCII with `\xHH`, `\"` and `\\` (R102); `;` starts a
comment (R103). None is an assembly error. -/
def lex : LexMode → List Char → Option (List Token)
  | .inText _, [] => none
  | .inText rev, '\\' :: 'x' :: h :: l :: cs =>
    match hexDigit h, hexDigit l with
    | some a, some b => lex (.inText (BitVec.ofNat 8 (16 * a + b) :: rev)) cs
    | _, _ => none
  | .inText rev, '\\' :: c :: cs =>
    if c = '"' ∨ c = '\\' then lex (.inText (BitVec.ofNat 8 c.toNat :: rev)) cs else none
  | .inText rev, c :: cs =>
    if c = '"' then (Token.text rev.reverse :: ·) <$> lex .between cs
    else if c.toNat < 0x80 then lex (.inText (BitVec.ofNat 8 c.toNat :: rev)) cs
    else none
  | m, [] => some (flushWord m)
  | m, c :: cs =>
    if c = ';' then some (flushWord m)
    else if c = ',' then (flushWord m ++ Token.comma :: ·) <$> lex .between cs
    else if c = '"' then (flushWord m ++ ·) <$> lex (.inText []) cs
    else if c = ' ' ∨ c = '\t' then (flushWord m ++ ·) <$> lex .between cs
    else
      match m with
      | .inWord rev => lex (.inWord (c :: rev)) cs
      | _ => lex (.inWord [c]) cs

/-- The operands of a line: tokens separated by single commas. -/
def operandList : List Token → Option (List Token)
  | [] => some []
  | [.comma] => none
  | [t] => some [t]
  | .comma :: _ => none
  | t :: .comma :: ts =>
    match operandList ts with
    | some [] => none
    | some os => some (t :: os)
    | none => none
  | _ :: _ :: _ => none

/-- A digit string in a base, most significant digit first; none for an empty one or a foreign digit. -/
def numeral (base : Nat) (ds : List Char) : Option Nat :=
  if ds.isEmpty then none
  else ds.foldl (fun acc c => do
    let v ← acc
    let d ← hexDigit c
    if d < base then some (v * base + d) else none) (some 0)

/-- "Operands are decimal or `0x` hexadecimal integers" (R101), below 2^width or an assembly error. -/
def number (width : Nat) (t : Token) : Option (BitVec width) := do
  let v ← match t with
    | .word ('0' :: 'x' :: ds) => numeral 16 ds
    | .word ds => numeral 10 ds
    | _ => none
  if v < 2 ^ width then some (BitVec.ofNat width v) else none

/-- The register names of 10_state.md R21, in id order. -/
def registerNames : List String :=
  ["DATA", "PX", "ADDR", "FC", "RIDX", "NCH", "CHAR", "RES", "STATUS", "STICKY", "OUTW_LEN", "LASTCMD",
   "MSG_COUNT"]

/-- "Register names are those of 10_state.md rule R21, or `r<id>`" (R102). -/
def register (t : Token) : Option (BitVec 4) :=
  match t with
  | .word cs =>
    match registerNames.findIdx? (fun n => n.toList == cs) with
    | some i => some (BitVec.ofNat 4 i)
    | none =>
      match cs with
      | 'r' :: ds => number 4 (.word ds)
      | _ => none
  | _ => none

/-- A string operand. -/
def textOperand : Token → Option (List Byte)
  | .text bs => some bs
  | _ => none

/-- PUSH's "A: isNumeric=0, N: isNumeric=1" (R102). -/
def messageKind : Token → Option Bool
  | .word ['A'] => some false
  | .word ['N'] => some true
  | _ => none

/-- The first word of a line, cut at its periods: the mnemonic and its suffixes (R101). -/
def splitSuffixes : List Char → List Char × List (List Char)
  | [] => ([], [])
  | c :: cs =>
    if c = '.' then ([], (splitSuffixes cs).1 :: (splitSuffixes cs).2)
    else (c :: (splitSuffixes cs).1, (splitSuffixes cs).2)

/-- The suffixes are among the allowed letters and none stands twice (R101). -/
def suffixesAllowed (allowed : List Char) (sfx : List (List Char)) : Bool :=
  sfx.all (fun x => allowed.any fun a => x == [a]) && decide sfx.Nodup

/-- The instructions of a mnemonic with its suffixes and operands: the commands of R101, the transactions
of R102 and the expansions of R104. None is an assembly error. -/
def assembleOperation (mnemonic : List Char) (sfx : List (List Char)) (ops : List Token) :
    Option (List Instr) :=
  let is (name : String) (allowed : List Char) : Bool :=
    (name.toList == mnemonic) && suffixesAllowed allowed sfx
  let n := sfx.contains ['N']
  let st := sfx.contains ['S']
  let u := sfx.contains ['U']
  match ops with
  | [] =>
    if is "NOP" [] then some [.nop]
    else if is "CRC" [] then some [.crc]
    else if is "PAR" [] then some [.par]
    else if is "CW" [] then some [.cw]
    else if is "AOFF" [] then some [.aoff]
    else if is "TLEN" [] then some [.tlen]
    else if is "NLEN" [] then some [.nlen]
    else if is "CLR" [] then some [.clr]
    else if is "DIGIT" ['S'] then some [.digit st]
    else if is "PARSE" ['S'] then some [.parse st]
    else if is "ETX" ['N', 'S'] then some [.etx n st]
    else if is "BATCH" ['S', 'U'] then some [.batch st u 2#8]
    else if is "SER" ['U'] then some [.ser u]
    else if is "MCLR" [] then some [.mclr]
    else if is "READW" [] then some [.readw]
    else if is "READB" [] then some [.readb]
    else if is "RESET" [] then some [.reset]
    else none
  | [a] =>
    if is "PACKA" ['S'] then (fun off => [.packa st off]) <$> number 4 a
    else if is "PACKN" ['S'] then (fun off => [.packn st off]) <$> number 4 a
    else if is "BATCH" ['S', 'U'] then (fun rc => [.batch st u rc]) <$> number 8 a
    else if is "RD" [] then (fun r => [.rd r]) <$> register a
    else if is "LOADA" [] then (fun t => [.loada t]) <$> textOperand a
    else if is "LOADM" [] then (fun t => [.loadm t]) <$> textOperand a
    else if is "CMD" [] then (fun w => [.cmd w]) <$> number 32 a
    else if is "CRCOF" [] then (fun d => [.wr 0#4 d, .crc]) <$> number 32 a
    else if is "PAROF" [] then (fun x => [.wr 1#4 x, .par]) <$> number 32 a
    else if is "CODEWORD" [] then (fun d => [.wr 0#4 d, .cw]) <$> number 32 a
    else if is "DIGITOF" [] then (fun c => [.wr 6#4 c, .digit false]) <$> number 32 a
    else if is "SEND" ['S', 'U'] then (fun rc => [.batch st u rc, .readb]) <$> number 8 a
    else none
  | [a, b] =>
    if is "WR" [] then do
      let r ← register a
      let v ← number 32 b
      some [.wr r v]
    else none
  | [a, b, c] =>
    if is "PUSH" [] then do
      let k ← messageKind a
      let at' ← textOperand b
      let mt ← textOperand c
      some [.push k at' mt]
    else if is "ENCODE" ['N', 'S'] then do
      let ridx ← number 32 a
      let at' ← textOperand b
      let mt ← textOperand c
      some [.wr 4#4 ridx, .loada at', .parse st, .loadm mt, .etx n st]
    else none
  | _ => none

/-- The instructions of one line (R103): none is an assembly error, and a blank or comment line is no
instruction. -/
def assembleLine (line : String) : Option (List Instr) := do
  match ← lex .between line.toList with
  | [] => some []
  | .word w :: rest =>
    let ops ← operandList rest
    assembleOperation (splitSuffixes w).1 (splitSuffixes w).2 ops
  | _ :: _ => none

/-- "A program is a sequence of lines ... performed in order" (R103). -/
def assembleProgram (lines : List String) : Option (List Instr) :=
  List.flatten <$> lines.mapM assembleLine

/-- The host issues instructions after those already pending (R250; log 6): "Each command line is itself a
CMD transaction carrying the word it assembles to" (R102). -/
def State.issue (is : List Instr) (s : State) : State :=
  { s with port := s.port ++ is.map Instr.toRecord }

end Sys2Proof.Machine
end

