-- ==== Sys2Proof/Tests/Slice0.lean ====
section
/-! SUPPORT. Tests/Slice0.lean: the model's own tests. Every expected value is transcribed from
spec/95_test_vectors.md or from the rule named, none from the model. Then the witnesses: for each statement
with hypotheses, concrete states and operands that meet them together, clause by clause. -/

/- Theorems are checked one after another: the concurrent kernel checks of many small `decide +kernel`
theorems run the check out of threads. -/
set_option Elab.async false

namespace Sys2Proof.Tests

open Sys2Proof.Machine Sys2Proof.Claims

/-- The next state of an outcome. -/
def nextOf : Out → Option State
  | .next t => some t
  | .fault _ => none
  | .refused _ => none

/-- One field of the next state of an instruction. -/
def seen {α : Type} (i : Instr) (s : State) (f : State → α) : Option α := (nextOf (exec i s)).map f

/-- Reset state with a message text. -/
def withText (t : List Byte) : State := { State.reset with mtxt := t }

/-- Reset state with an address text. -/
def withAddressText (t : List Byte) : State := { State.reset with atxt := t }

/-- Reset state with a message queue. -/
def withQueue (q : List Message) : State := { State.reset with msgq := q }

/-- A state with OUT_CAP = `n`. -/
def capped (n : Nat) (s : State) : State := { s with params := { s.params with outCap := n } }

/-! ### Decoding: one word a command, written out from the fields of R81 and the opcodes of R91 -/

theorem test_decode_nop : decodeCommand 0b00000000000000000000000000000000#32 = .ok .nop := by decide
theorem test_decode_crc : decodeCommand 0b00000000000000000000000000000001#32 = .ok .crc := by decide
theorem test_decode_par : decodeCommand 0b00000000000000000000000000000010#32 = .ok .par := by decide
theorem test_decode_cw : decodeCommand 0b00000000000000000000000000000011#32 = .ok .cw := by decide
theorem test_decode_digit :
    decodeCommand 0b00000000000000000000000000100100#32 = .ok (.digit true) := by decide
theorem test_decode_packa :
    decodeCommand 0b00000000000000000000111100100101#32 = .ok (.packa true 15#4) := by decide
theorem test_decode_packn :
    decodeCommand 0b00000000000000000000000100000110#32 = .ok (.packn false 1#4) := by decide
theorem test_decode_aoff : decodeCommand 0b00000000000000000000000000000111#32 = .ok .aoff := by decide
theorem test_decode_parse :
    decodeCommand 0b00000000000000000000000000101000#32 = .ok (.parse true) := by decide
theorem test_decode_tlen : decodeCommand 0b00000000000000000000000000001001#32 = .ok .tlen := by decide
theorem test_decode_nlen : decodeCommand 0b00000000000000000000000000001010#32 = .ok .nlen := by decide
theorem test_decode_etx :
    decodeCommand 0b00000000000000000000000000011011#32 = .ok (.etx true false) := by decide
theorem test_decode_batch :
    decodeCommand 0b00000000000000100000000001001100#32 = .ok (.batch false true 2#8) := by decide
theorem test_decode_ser :
    decodeCommand 0b00000000000000000000000001001101#32 = .ok (.ser true) := by decide
theorem test_decode_clr : decodeCommand 0b00000000000000000000000000001110#32 = .ok .clr := by decide

/-- The illegal words of 95_test_vectors.md section 30, and the cause R284 names. -/
theorem test_decode_illegal :
    [0x0F, 0x10, 0x80, 0x1000, 0x01000000, 0x34, 0x1F05, 0x7B, 0x00FF007C, 0x0002008C, 0x5D, 0x1E].map
        (fun w => decodeTableWord 32 w) = List.replicate 12 none ∧
    decodeCommand 0x0F#32 = .error .reservedOp ∧ decodeCommand 0x10#32 = .error .unusedField ∧
    decodeCommand 0x80#32 = .error .reservedBit := by decide

/-- The kinds of R94, a record's kind nibble written out. -/
theorem test_decode_kinds :
    [0b0000, 0b0001, 0b0010, 0b0011, 0b0100, 0b0101, 0b0110, 0b0111, 0b1000, 0b1001, 0b1010, 0b1111].map
        (fun k => decodeTableWord 8 k) =
      [some (.cmd 0#32), some (.wr 0#4 0#32), some (.rd 0#4), some (.loada []), some (.loadm []),
       some (.push false [] []), some .mclr, some .readw, some .readb, some .reset, none, none] := by
  decide

/-- The payload of a record goes to the operands (R94). -/
theorem test_decode_payload :
    decodeRecord { blankRecord 1#4 with reg := 2#4, value := 9#32, word := 7#32 } = .ok (.wr 2#4 9#32) ∧
    decodeRecord { blankRecord 5#4 with isNumeric := true, addressText := [0x30#8],
                                        messageText := [0x35#8] } =
      .ok (.push true [0x30#8] [0x35#8]) := by decide

/-! ### WellFormed: an ill-formed term for each check -/

theorem test_wellFormed_refuses_long_loada :
    Instr.wellFormed (.loada (List.replicate 33 0x30#8)) = false := by decide
theorem test_wellFormed_refuses_long_loadm :
    Instr.wellFormed (.loadm (List.replicate 65536 0x30#8)) = false := by
  rw [Instr.wellFormed, messageTextFits, List.length_replicate]
  decide
theorem test_wellFormed_refuses_long_push_address :
    Instr.wellFormed (.push false (List.replicate 33 0x30#8) []) = false := by decide
theorem test_wellFormed_refuses_long_push_text :
    Instr.wellFormed (.push false [] (List.replicate 65536 0x30#8)) = false := by
  rw [Instr.wellFormed, messageTextFits, List.length_replicate]
  decide
theorem test_wellFormed_accepts_full_loada :
    Instr.wellFormed (.loada (List.replicate 32 0x30#8)) = true := by decide

/-! ### Commands (95_test_vectors.md, Part L1 and L2) -/

theorem test_crc : seen .crc { State.reset with data := 0x0aaaaa#21 } (·.res) = some 0x072#32 := by
  decide +kernel
theorem test_par : seen .par { State.reset with px := 0x80000000#32 } (·.res) = some 1#32 := by
  decide +kernel
theorem test_par_wide : seen .par { State.reset with px := 0x12345678#32 } (·.res) = some 1#32 := by
  decide +kernel
theorem test_cw : seen .cw { State.reset with data := 0x012345#21 } (·.res) = some 0x091A2C93#32 := by
  decide +kernel
theorem test_cw_address : seen .cw { State.reset with data := 0x096b43#21 } (·.res) = some 0x4B5A1A25#32 := by
  decide +kernel
theorem test_digit :
    seen (.digit false) { State.reset with char := 0x37#8 } (·.res) = some 7#32 := by decide +kernel
theorem test_digit_strict :
    seen (.digit true) { State.reset with char := 0x2A#8 } (fun t => (t.res, t.status, t.sticky)) =
      some (0#32, 5#32, 0x20#32) := by decide +kernel
theorem test_packa :
    seen (.packa false 15#4) (withText [0x41#8, 0x42#8, 0x43#8]) (fun t => (t.outw, t.res)) =
      some ([0xC14387B8#32, 0x7CD215D8#32, 0xC00004DC#32], 3#32) := by decide +kernel
theorem test_packa_high_byte :
    seen (.packa false 1#4) (withText [0xC1#8]) (·.outw) = some [0xC100057F#32] := by decide +kernel
theorem test_packn :
    seen (.packn false 15#4) (withText [0x31#8, 0x32#8, 0x33#8, 0x34#8, 0x35#8, 0x36#8]) (·.outw) =
      some [0xC261572C#32, 0x7CD215D8#32, 0xB0000136#32] := by decide +kernel
theorem test_packn_fallback :
    seen (.packn false 0#4) (withText [0x75#8, 0x5F#8, 0x5B#8, 0x5D#8]) (·.outw) =
      some [0xEDFB8647#32] := by decide +kernel
theorem test_aoff : seen .aoff { State.reset with addr := 1234567#21 } (·.res) = some 14#32 := by
  decide +kernel
theorem test_parse :
    seen (.parse false) (withAddressText [0x31#8, 0x32#8, 0x33#8, 0x34#8, 0x35#8, 0x36#8, 0x37#8, 0x43#8])
      (fun t => (t.addr, t.fc, t.res)) = some (0x12d687#21, 2#2, 0x0052D687#32) := by decide +kernel
theorem test_parse_range :
    seen (.parse true) (withAddressText [0x32#8, 0x30#8, 0x39#8, 0x37#8, 0x31#8, 0x35#8, 0x32#8])
      (fun t => (t.addr, t.fc, t.res, t.status)) = some (0#21, 3#2, 0#32, 3#32) := by decide +kernel
theorem test_tlen :
    seen .tlen { State.reset with nch := 65535#16 } (·.res) = some 24396#32 := by decide +kernel
theorem test_tlen_pad_strict :
    seen .tlen { State.reset with nch := 40#16, ridx := 1#32,
                                  params := { Config.defaultParams with padStrict := true } } (·.res) =
      some 34#32 := by decide +kernel
theorem test_nlen :
    seen .nlen { State.reset with addr := 7#21, nch := 10#16, ridx := 1#32 } (·.res) = some 34#32 := by
  decide +kernel

/-- L2, section 45: `ETX.N`, RIDX 1, ADDR 7, FC 3, "0123456789". -/
theorem test_etx :
    seen (.etx true false)
      { withText [0x30#8, 0x31#8, 0x32#8, 0x33#8, 0x34#8, 0x35#8, 0x36#8, 0x37#8, 0x38#8, 0x39#8] with
        ridx := 1#32, addr := 7#21, fc := 3#2 } (fun t => (t.outw, t.res)) =
      some (0x7CD215D8#32 :: List.replicate 14 0x7A89C197#32 ++
        [0x00001DA5#32, 0x842613B7#32, 0x7CD215D8#32, 0xD370CFDE#32] ++
        List.replicate 15 0x7A89C197#32, 34#32) := by decide +kernel

/-- L1.8, P1R's scenario A. -/
theorem test_etx_scenario_a :
    seen (.etx false false) { State.reset with fc := 0#2 } (fun t => (t.outw, t.res, t.status)) =
      some (List.replicate 18 0xAAAAAAAA#32 ++ [0x7CD215D8#32, 0#32] ++ List.replicate 15 0x7A89C197#32,
        35#32, 0#32) := by decide +kernel

/-- L2, section 46: the third message of the queue is never reached, FIDX is 1. -/
theorem test_batch_partial :
    seen (.batch true true 1#8)
      (withQueue [⟨false, [0x37#8], []⟩,
        ⟨false, [0x39#8, 0x39#8, 0x39#8, 0x39#8, 0x39#8, 0x39#8, 0x39#8], []⟩, ⟨true, [0x31#8], [0x31#8]⟩])
      (fun t => (t.outw, t.res, t.status, t.outb.length)) =
      some (List.replicate 18 0xAAAAAAAA#32 ++ [0x7CD215D8#32] ++ List.replicate 14 0x7A89C197#32 ++
        [0x00001DA5#32, 0x7A89C197#32], 0#32, 0x00000103#32, 140) := by decide +kernel

/-- L1.10: two transmissions, one preamble. -/
theorem test_batch_repeats :
    seen (.batch false true 2#8) (withQueue [⟨false, [0x30#8, 0x41#8], []⟩])
      (fun t => (t.outw, t.res, t.outb.take 4, t.lastcmd)) =
      some (List.replicate 18 0xAAAAAAAA#32 ++ [0x7CD215D8#32, 0#32] ++ List.replicate 15 0x7A89C197#32 ++
        [0x7CD215D8#32, 0#32] ++ List.replicate 15 0x7A89C197#32, 52#32,
        [0xAA#8, 0xAA#8, 0xAA#8, 0xAA#8], 0x0002004C#32) := by decide +kernel

theorem test_ser :
    seen (.ser false) { State.reset with outw := [0x7CD215D8#32, 0x7A89C197#32, 0#32] } (·.outb) =
      some [0x83#8, 0x2D#8, 0xEA#8, 0x27#8, 0x85#8, 0x76#8, 0x3E#8, 0x68#8, 0xFF#8, 0xFF#8, 0xFF#8,
        0xFF#8] := by decide +kernel
theorem test_ser_suppressed :
    seen (.ser true) { State.reset with outw := [0x7CD215D8#32] } (·.outb) =
      some [0x7C#8, 0xD2#8, 0x15#8, 0xD8#8] := by decide +kernel
theorem test_nop :
    seen .nop { State.reset with status := 2#32, sticky := 4#32, res := 9#32, lastcmd := 8#32 }
      (fun t => (t.status, t.sticky, t.res, t.lastcmd)) = some (0#32, 4#32, 9#32, 0#32) := by decide +kernel
theorem test_clr :
    seen .clr { State.reset with outw := [1#32], outb := [1#8], res := 1#32, fc := 1#2 }
      (fun t => (t.outw, t.outb, t.res, t.fc)) = some ([], [], 0#32, 1#2) := by decide +kernel

/-! ### Host transactions (95_test_vectors.md, section 47) -/

theorem test_cmd_illegal :
    seen (.cmd 0xF#32) State.reset (fun t => (t.status, t.lastcmd, t.sticky)) =
      some (1#32, 0xF#32, 2#32) := by decide +kernel
theorem test_cmd_legal :
    seen (.cmd 0x00000003#32) { State.reset with data := 1#21 } (fun t => (t.res, t.lastcmd)) =
      some (0x00000ED3#32, 3#32) := by decide +kernel
theorem test_wr_truncates :
    seen (.wr 0#4 0xFFFFFFFF#32) State.reset (·.data) = some 0x1FFFFF#21 := by decide +kernel
theorem test_wr_read_only :
    seen (.wr 7#4 1#32) State.reset (fun t => (t.status, t.sticky, t.res)) =
      some (8#32, 0x100#32, 0#32) := by decide +kernel
theorem test_rd_fc : seen (.rd 3#4) State.reset (·.reply) = some (.value 3#32) := by decide +kernel
theorem test_rd_msg_count :
    seen (.rd 12#4) (withQueue [⟨true, [0x31#8], []⟩]) (·.reply) = some (.value 1#32) := by decide +kernel
theorem test_loada_too_long :
    seen (.loada (List.replicate 33 0x30#8)) State.reset (fun t => (t.status, t.atxt)) =
      some (6#32, []) := by decide +kernel
theorem test_loadm :
    seen (.loadm [0x48#8, 0x49#8]) State.reset (·.mtxt) = some [0x48#8, 0x49#8] := by decide +kernel
theorem test_push_full :
    seen (.push false [0x31#8] []) (withQueue (List.replicate 256 ⟨false, [], []⟩))
      (fun t => (t.status, t.msgq.length)) = some (7#32, 256) := by decide +kernel
theorem test_push_address_too_long :
    seen (.push false (List.replicate 33 0x31#8) []) State.reset (fun t => (t.status, t.msgq.length)) =
      some (6#32, 0) := by decide +kernel
theorem test_mclr : seen .mclr (withQueue [⟨false, [], []⟩]) (·.msgq) = some [] := by decide +kernel
theorem test_readw :
    seen .readw { State.reset with outw := [5#32] } (·.reply) = some (.words [5#32]) := by decide +kernel
theorem test_readb :
    seen .readb { State.reset with outb := [1#8, 2#8, 3#8, 4#8] } (·.reply) =
      some (.bytes [1#8, 2#8, 3#8, 4#8]) := by decide +kernel
theorem test_reset :
    nextOf (exec .reset { capped 40 State.reset with data := 5#21, fc := 0#2, sticky := 2#32 }) =
      some (capped 40 State.reset) := by decide +kernel

/-! ### The step -/

/-- An opcode-table word runs as the first instruction after reset (R250; log 9). -/
theorem test_step_command :
    (nextOf (step (State.reset.withFetchWord 32 0x0000000B))).map (fun t => (t.res, t.port)) =
      some (35#32, []) := by decide +kernel
theorem test_step_host_kind :
    (nextOf (step (State.reset.withFetchWord 8 0x8))).map (fun t => (t.reply, t.port)) =
      some (.bytes [], []) := by decide +kernel
theorem test_step_reserved_kind :
    (nextOf (step (State.reset.withFetchWord 8 0xC))).map (fun t => (t.status, t.sticky)) =
      some (1#32, 2#32) := by decide +kernel

/-! ### The assembler notation (30_encoding.md R101 to R104) -/

theorem test_assemble_batch : assembleLine "BATCH.U.S 3 ; comment" = some [.batch true true 3#8] := by
  decide +kernel
theorem test_assemble_batch_default : assembleLine "BATCH" = some [.batch false false 2#8] := by
  decide +kernel
theorem test_assemble_off_out_of_range : assembleLine "PACKA 16" = none := by decide +kernel
theorem test_assemble_foreign_suffix : assembleLine "CRC.S" = none := by decide +kernel
theorem test_assemble_push :
    assembleLine "PUSH N, \"1\\x41\", \"2;\\\"\"" =
      some [.push true [0x31#8, 0x41#8] [0x32#8, 0x3B#8, 0x22#8]] := by decide +kernel
theorem test_assemble_encode :
    assembleProgram ["ENCODE.N 1, \"7D\", \"5\"", "RD r10"] =
      some [.wr 4#4 1#32, .loada [0x37#8, 0x44#8], .parse false, .loadm [0x35#8], .etx true false,
        .rd 10#4] := by decide +kernel

/-! ### Witnesses: the hypotheses of the statements can be met -/

theorem witness_LegalCommandWordIsItsEncoding :
    decodeCommand 0x00FF006C#32 = .ok (.batch true true 255#8) := by decide

theorem witness_HostRecordKindsDecode :
    (List.range 10).all (fun k => (blankRecord (BitVec.ofNat 4 k)).kind == BitVec.ofNat 4 k) = true ∧
    10 ≤ (blankRecord 10#4).kind.toNat ∧ 10 ≤ (blankRecord 15#4).kind.toNat := by decide

theorem witness_StepRunsTheDecodedInstruction :
    (State.reset.withFetchWord 32 1).port = [commandRecord 1#32] ∧
    decodeRecord (commandRecord 1#32) = .ok (.cmd 1#32) ∧ State.reset.port = [] := by decide

theorem witness_CommandTransactionPerformsItsWord_legal :
    decodeCommand 0x00000F25#32 = .ok (.packa true 15#4) ∧
    { State.reset with port := [commandRecord 0x00000F25#32] }.port =
      commandRecord 0x00000F25#32 :: [] := by decide

theorem witness_CommandTransactionPerformsItsWord_illegal (i : Instr) : decodeCommand 0xF#32 ≠ .ok i := by
  have h : decodeCommand 0xF#32 = .error .reservedOp := by decide
  simp [h]

theorem witness_StepRunsTheDecodedInstruction_reserved :
    ({ State.reset with port := [blankRecord 10#4] } : State).port = blankRecord 10#4 :: [] ∧
    10 ≤ (blankRecord 10#4).kind.toNat ∧ 10 ≤ (blankRecord 15#4).kind.toNat := by decide

theorem witness_EveryStepKeepsTheInvariant :
    ∃ t, (State.reset.withFetchWord 32 0xF).Inv ∧ step (State.reset.withFetchWord 32 0xF) = .next t ∧
      t.status = 1#32 :=
  ⟨_, by decide, rfl, by decide⟩

theorem witness_ResetHasTheInvariant_smallest_buffer :
    Config.Params.Valid { Config.defaultParams with outCap := 1 } := by decide
theorem witness_ResetHasTheInvariant_largest_buffer :
    Config.Params.Valid { Config.defaultParams with outCap := 2 ^ 30 } := by decide

theorem witness_EveryReachableStateHasTheInvariant :
    ∃ t, Reachable t ∧ t.status = 1#32 := by
  have h0 : Reachable { State.reset with params := Config.defaultParams } := .powerOn _ (by decide)
  exact ⟨_, .step _ _ (.issue _ [commandRecord 0xF#32] h0) rfl, by decide⟩

theorem witness_NoTransactionChangesTheParameters :
    ∃ t, exec .reset (capped 40 State.reset) = .next t ∧ step (capped 40 State.reset) = .next t :=
  ⟨_, rfl, rfl⟩

theorem witness_OnlyResetClearsStickyBits_kept :
    ∃ t, exec (.cmd 0xF#32) { State.reset with sticky := 4#32 } = .next t ∧
      ({ State.reset with sticky := 4#32 } : State).sticky.getLsbD 2 = true ∧
      isCommand (.cmd 0xF#32) = true ∧ errField t.status ≠ 0#4 :=
  ⟨_, rfl, by decide, by decide, by decide⟩
theorem witness_OnlyResetClearsStickyBits_reset :
    ∃ t, exec .reset { State.reset with sticky := 4#32 } = .next t := ⟨_, rfl⟩

theorem witness_RegistersChangeOnlyByTheirWriters_command :
    ∃ t, exec .crc State.reset = .next t ∧ operation .crc = some .crc ∧ isCommand .crc = true :=
  ⟨_, rfl, by decide, by decide⟩
theorem witness_RegistersChangeOnlyByTheirWriters_transaction :
    ∃ t, exec .mclr State.reset = .next t ∧ isCommand .mclr = false := ⟨_, rfl, by decide⟩
theorem witness_RegistersChangeOnlyByTheirWriters_nop :
    ∃ t, exec (.cmd 0#32) State.reset = .next t ∧ operation (.cmd 0#32) = some .nop :=
  ⟨_, rfl, by decide⟩
theorem witness_RegistersChangeOnlyByTheirWriters_accepted :
    ∃ t, exec (.wr 6#4 0x41#32) { State.reset with status := 2#32 } = .next t ∧
      isCommand (.wr 6#4 0x41#32) = false ∧
      ¬ Refused (.wr 6#4 0x41#32) { State.reset with status := 2#32 } ∧ t.char = 0x41#8 :=
  ⟨_, rfl, by decide, by simp [Refused], by decide⟩
theorem witness_RegistersChangeOnlyByTheirWriters_queue_not_full :
    ∃ t, exec (.push true [0x31#8] []) State.reset = .next t ∧
      isCommand (.push true [0x31#8] []) = false ∧ ¬ Refused (.push true [0x31#8] []) State.reset ∧
      t.msgq.length = 1 :=
  ⟨_, rfl, by decide, by simp [Refused, State.reset], by decide⟩
theorem witness_RegistersChangeOnlyByTheirWriters_no_fault :
    ∃ t, exec .aoff { State.reset with sticky := 4#32, status := 2#32 } = .next t ∧
      isCommand .aoff = true ∧ errField t.status = 0#4 :=
  ⟨_, rfl, by decide, by decide⟩

theorem witness_BuffersChangeOnlyByTheirWriters_port :
    ∃ t, exec .reset (State.reset.withFetchWord 32 1) = .next t ∧
      (State.reset.withFetchWord 32 1).port = [commandRecord 1#32] := ⟨_, rfl, by decide⟩
theorem witness_BuffersChangeOnlyByTheirWriters_address_text :
    ∃ t, exec (.loada [0x31#8]) State.reset = .next t ∧ (∀ b, Instr.loada [0x31#8] ≠ .loadm b) ∧
      (∀ n a m, Instr.loada [0x31#8] ≠ .push n a m) ∧ t.atxt = [0x31#8] :=
  ⟨_, rfl, by simp, by simp, by decide⟩
theorem witness_BuffersChangeOnlyByTheirWriters_message_text :
    ∃ t, exec (.loadm [0x31#8]) State.reset = .next t ∧ (∀ b, Instr.loadm [0x31#8] ≠ .loada b) ∧
      t.mtxt = [0x31#8] :=
  ⟨_, rfl, by simp, by decide⟩
theorem witness_BuffersChangeOnlyByTheirWriters_bytes :
    ∃ t, exec (.ser true) { State.reset with outw := [1#32] } = .next t ∧
      (∀ st su rc, operation (.ser true) ≠ some (.batch st su rc)) ∧ operation (.ser true) ≠ some .clr ∧
      (∀ st off, operation (.ser true) ≠ some (.packa st off)) ∧
      (∀ st off, operation (.ser true) ≠ some (.packn st off)) ∧
      (∀ n st, operation (.ser true) ≠ some (.etx n st)) ∧ t.outb = [0#8, 0#8, 0#8, 1#8] :=
  ⟨_, rfl, by simp [operation], by simp [operation], by simp [operation], by simp [operation],
    by simp [operation], by decide⟩
theorem witness_BuffersChangeOnlyByTheirWriters_words :
    ∃ t, exec (.packa false 1#4) (withText [0x41#8]) = .next t ∧
      (∀ st su rc, operation (.packa false 1#4) ≠ some (.batch st su rc)) ∧
      operation (.packa false 1#4) ≠ some .clr ∧
      (∀ su, operation (.packa false 1#4) ≠ some (.ser su)) ∧ t.outw = [0xC100057F#32] :=
  ⟨_, rfl, by simp [operation], by simp [operation], by simp [operation], by decide +kernel⟩

theorem witness_FaultingCommandWritesOnlyTheRecord :
    ∃ t, exec (.parse false) State.reset = .next t ∧ isCommand (.parse false) = true ∧
      operation (.parse false) = some (.parse false) ∧ errField t.status ≠ 0#4 :=
  ⟨_, rfl, by decide, by decide, by decide⟩

theorem witness_HostTransactionLeavesStatusOrIsRefused :
    ∃ t, exec (.wr 7#4 0#32) State.reset = .next t ∧ isCommand (.wr 7#4 0#32) = false :=
  ⟨_, rfl, by decide⟩

theorem witness_DefaultModeFaults_syntax :
    ∃ t, exec (.cmd 8#32) State.reset = .next t ∧ operation (.cmd 8#32) = some (.parse false) ∧
      strictOf (.parse false) = false ∧ errField t.status = 2#4 :=
  ⟨_, rfl, by decide, rfl, by decide⟩
theorem witness_DefaultModeFaults_overflow :
    ∃ t, exec (.etx false false) (capped 34 State.reset) = .next t ∧
      isCommand (.etx false false) = true ∧ operation (.etx false false) = some (.etx false false) ∧
      errField t.status = 7#4 :=
  ⟨_, rfl, by decide, by decide, by decide +kernel⟩

theorem witness_OnlyZeroOfRepeatIndexMatters :
    (5#32 = 0#32 ↔ ({ State.reset with ridx := 1#32 } : State).ridx = 0#32) ∧
    (0#32 = 0#32 ↔ State.reset.ridx = 0#32) := by decide

theorem witness_RegisterWriteStoresOrIsRefused :
    (0#4).toNat ≤ 6 ∧ (6#4).toNat ≤ 6 ∧ 7 ≤ (7#4).toNat ∧ 7 ≤ (15#4).toNat := by decide

theorem witness_LoadReplacesTheTextBuffer :
    (List.replicate 32 0x30#8).length ≤ 32 ∧ 32 < (List.replicate 33 0x30#8).length ∧
    (List.replicate 65535 0x30#8).length ≤ 65535 ∧ 65535 < (List.replicate 65536 0x30#8).length := by
  simp only [List.length_replicate]
  decide

theorem witness_PushAppendsOneMessage :
    (withQueue (List.replicate 255 ⟨false, [], []⟩)).msgq.length ≠ 256 ∧
    (withQueue (List.replicate 256 ⟨false, [], []⟩)).msgq.length = 256 ∧
    (List.replicate 32 0x30#8).length ≤ 32 ∧ 32 < (List.replicate 33 0x30#8).length := by
  simp only [withQueue, List.length_replicate]
  decide

theorem witness_DigitCommandReversesTheTableValue :
    ({ State.reset with char := 0x5D#8 } : State).char ∈ numericCharacters ∧
    ({ State.reset with char := 0x2A#8 } : State).char ∉ numericCharacters := by decide

theorem witness_TextBitSequences : [0x41#8, 0x42#8][1]? = some 0x42#8 := by decide

theorem witness_PackedWordCount_and_PackingKeepsEveryBit :
    15 ≤ 15 ∧ (pack (List.replicate 20 true) 15).length = 2 ∧ (pack [] 0).length = 0 := by decide +kernel

theorem witness_PackerSyncPositions :
    (pack (List.replicate 20 true) 15)[0]? = some 0xFFFFFFFF#32 ∧
    (pack (List.replicate 20 true) 15)[1]? = some 0x7CD215D8#32 := by decide +kernel

theorem witness_PackCommandsAppendTheirWords :
    Mappable false (capped 1 (withText [0x7F#8])).mtxt ∧
    (capped 1 (withText [0x7F#8])).outw.length +
      packedCount (7 * (capped 1 (withText [0x7F#8])).mtxt.length) 1 ≤
        (capped 1 (withText [0x7F#8])).params.outCap ∧
    Mappable true (capped 1 (withText [0x5D#8])).mtxt ∧
    (capped 1 (withText [0x5D#8])).outw.length +
      packedCount (4 * (capped 1 (withText [0x5D#8])).mtxt.length) 1 ≤
        (capped 1 (withText [0x5D#8])).params.outCap := by decide

theorem witness_AppendingCommandsFaultWhole_pack :
    ¬ Mappable false (withText [0x41#8, 0x80#8]).mtxt ∧ ¬ Mappable true (withText [0x2A#8]).mtxt ∧
    Mappable false (capped 1 (withText [0x41#8])).mtxt ∧
    (capped 1 (withText [0x41#8])).params.outCap <
      (capped 1 (withText [0x41#8])).outw.length +
        packedCount (7 * (capped 1 (withText [0x41#8])).mtxt.length) 15 ∧
    Mappable true (capped 1 (withText (List.replicate 5 0x39#8))).mtxt ∧
    (capped 1 (withText (List.replicate 5 0x39#8))).params.outCap <
      (capped 1 (withText (List.replicate 5 0x39#8))).outw.length +
        packedCount (4 * (capped 1 (withText (List.replicate 5 0x39#8))).mtxt.length) 15 := by decide

theorem witness_DecimalValueOfDigitTexts :
    (splitAddress [0x44#8]).1 = [] ∧ IsNumber [0x30#8, 0x39#8] ∧ ¬ IsNumber [] ∧ ¬ IsNumber [0x2F#8] ∧ ¬ IsNumber [0x3A#8] := by decide

/-- "2097151D" and "2097151": the largest address strict mode takes. -/
theorem witness_ParseCommandAcceptsAddresses :
    AddressForm [0x32#8, 0x30#8, 0x39#8, 0x37#8, 0x31#8, 0x35#8, 0x31#8, 0x44#8]
      [0x32#8, 0x30#8, 0x39#8, 0x37#8, 0x31#8, 0x35#8, 0x31#8] 3#2 ∧
    AddressForm [0x32#8, 0x30#8, 0x39#8, 0x37#8, 0x31#8, 0x35#8, 0x31#8]
      [0x32#8, 0x30#8, 0x39#8, 0x37#8, 0x31#8, 0x35#8, 0x31#8] 3#2 ∧
    AddressForm [0x30#8, 0x41#8] [0x30#8] 0#2 ∧
    decimalSum [0x32#8, 0x30#8, 0x39#8, 0x37#8, 0x31#8, 0x35#8, 0x31#8] ≤ 2097151 := by decide +kernel

/-- "D": a letter with an empty prefix. -/
theorem witness_ParseCommandFaults_syntax : ¬ ∃ p fc, AddressForm [0x44#8] p fc := by
  rintro ⟨p, fc, ⟨hne, hd⟩, h | ⟨h, -⟩⟩
  · have := congrArg List.length h
    simp at this
    exact hne this
  · subst h
    revert hd
    decide

/-- "2097152": the smallest address strict mode refuses. -/
theorem witness_ParseCommandFaults_range :
    AddressForm [0x32#8, 0x30#8, 0x39#8, 0x37#8, 0x31#8, 0x35#8, 0x32#8]
      [0x32#8, 0x30#8, 0x39#8, 0x37#8, 0x31#8, 0x35#8, 0x32#8] 3#2 ∧
    2097151 < decimalSum [0x32#8, 0x30#8, 0x39#8, 0x37#8, 0x31#8, 0x35#8, 0x32#8] := by decide +kernel

theorem witness_EveryBatchStartsWithSync_strict_padding :
    (framedBody { Config.defaultParams with padStrict := true } false 7#21 0#2 []).length % 17 = 0 ∧
    17 * 0 < (framedBody { Config.defaultParams with padStrict := true } false 7#21 0#2 []).length := by
  decide +kernel
theorem witness_EveryBatchStartsWithSync_strict_body :
    (framedBody { Config.defaultParams with padStrict := true } true 7#21 3#2
      (List.replicate 10 0x39#8)).length % 17 ≠ 0 ∧
    17 * 1 < (framed { Config.defaultParams with padStrict := true } true 7#21 3#2
      (List.replicate 10 0x39#8)).length := by
  decide +kernel
theorem witness_EveryBatchStartsWithSync_second_batch :
    Config.defaultParams.padStrict = false ∧
    17 * 1 < (framed Config.defaultParams true 7#21 3#2 (List.replicate 10 0x39#8)).length := by
  decide +kernel

theorem witness_AddressWordStandsInItsFrame : 1 ≤ 14 ∧ 14 ≤ 2 * ((7#21).toNat % 8) := by decide

theorem witness_TransmitCommandAppendsATransmission :
    Mappable true (capped 35 (withText [0x35#8])).mtxt ∧
    (capped 35 (withText [0x35#8])).outw.length +
      transmissionCount (capped 35 (withText [0x35#8])).params.padStrict true
        (capped 35 (withText [0x35#8])).ridx.toNat (capped 35 (withText [0x35#8])).addr
        (capped 35 (withText [0x35#8])).mtxt.length ≤ (capped 35 (withText [0x35#8])).params.outCap := by
  decide

theorem witness_AppendingCommandsFaultWhole_transmit :
    ¬ Mappable true (withText [0x2A#8]).mtxt ∧ ¬ Mappable false (withText [0x80#8]).mtxt ∧
    Mappable true (capped 34 (withText [0x35#8])).mtxt ∧
    (capped 34 (withText [0x35#8])).params.outCap <
      (capped 34 (withText [0x35#8])).outw.length +
        transmissionCount (capped 34 (withText [0x35#8])).params.padStrict true
          (capped 34 (withText [0x35#8])).ridx.toNat (capped 34 (withText [0x35#8])).addr
          (capped 34 (withText [0x35#8])).mtxt.length := by decide

/-- The messages of the batch witnesses: "0A" with no text, "8" with the numeric text "5". -/
def sampleQueue : List Message := [⟨false, [0x30#8, 0x41#8], []⟩, ⟨true, [0x38#8], [0x35#8]⟩]

theorem sampleQueue_accepted : ∀ m ∈ sampleQueue, Accepted true m := by
  intro m hm
  simp only [sampleQueue, List.mem_cons, List.not_mem_nil, or_false] at hm
  rcases hm with rfl | rfl
  · exact ⟨⟨(0#21, 0#2), by decide +kernel⟩, fun _ => by decide⟩
  · exact ⟨⟨(8#21, 3#2), by decide +kernel⟩, fun _ => by decide⟩

theorem witness_BatchEncodesTheWholeQueue :
    (withQueue sampleQueue).msgq ≠ [] ∧ (∀ m ∈ (withQueue sampleQueue).msgq, Accepted true m) ∧
    (batchStream (capped 52 (withQueue sampleQueue)).params 1 (withQueue sampleQueue).msgq).length ≤
      (capped 52 (withQueue sampleQueue)).params.outCap :=
  ⟨by decide, sampleQueue_accepted, by decide +kernel⟩

/-- The three ways message 2 can fail: "X" is no address, '*' is no numeric character, OUT_CAP is 52. -/
theorem witness_BatchStopsAtTheFirstFailure :
    (∀ x ∈ sampleQueue, Accepted true x) ∧
    (batchStream (capped 52 State.reset).params 1 sampleQueue).length ≤ 52 ∧
    parseAddress true [0x58#8] = .error .addrSyntax ∧
    parseAddress true [0x32#8, 0x30#8, 0x39#8, 0x37#8, 0x31#8, 0x35#8, 0x32#8] = .error .addrRange ∧
    ((∃ x, parseAddress true [0x31#8] = .ok x) ∧ ¬ Mappable true [0x2A#8]) ∧
    52 < (batchStream (capped 52 State.reset).params 1
      (sampleQueue ++ [⟨false, [0x31#8], []⟩])).length :=
  ⟨sampleQueue_accepted, by decide +kernel, by decide +kernel, by decide +kernel,
    ⟨⟨(1#21, 3#2), by decide +kernel⟩, by decide⟩, by decide +kernel⟩

theorem witness_BatchOfAnEmptyQueue : State.reset.msgq = [] := rfl

theorem witness_SerializationIsBigEndian : [1#32, 2#32][1]? = some 2#32 := by decide

end Sys2Proof.Tests
end

section
/-! Proofs about byte order and polarity (20_memory.md R62, R63): where each byte of `serialize` comes from. -/

namespace Sys2Proof.Machine

@[simp] theorem be4_length (x : Word) : (be4 x).length = 4 := rfl

/-- Byte `b` of a word, counted from the most significant end (R62). -/
theorem be4_getElem? (x : Word) {b : Nat} (hb : b < 4) :
    (be4 x)[b]? = some (x.extractLsb' (8 * (3 - b)) 8) := by
  interval_cases b <;> rfl

@[simp] theorem serialize_cons (w : Word) (ws : List Word) (supinv : Bool) :
    serialize (w :: ws) supinv = be4 (if supinv then w else ~~~w) ++ serialize ws supinv :=
  List.flatMap_cons

/-- The bytes of word `k` stand at the four places from `4 * k` on (R233). -/
theorem serialize_getElem? {ws : List Word} {k : Nat} {w : Word} (hw : ws[k]? = some w)
    {b : Nat} (hb : b < 4) (supinv : Bool) :
    (serialize ws supinv)[4 * k + b]? = (be4 (if supinv then w else ~~~w))[b]? := by
  induction ws generalizing k with
  | nil => simp at hw
  | cons v ws ih =>
    rw [serialize_cons]
    cases k with
    | zero =>
      obtain rfl : v = w := by simpa using hw
      rw [Nat.mul_zero, Nat.zero_add, List.getElem?_append_left (by simpa using hb)]
    | succ k =>
      have hskip : 4 * (k + 1) + b - (be4 (if supinv then v else ~~~v)).length = 4 * k + b := by
        rw [be4_length]; omega
      rw [List.getElem?_append_right (by rw [be4_length]; omega), hskip]
      exact ih (by simpa using hw)

/-- Polarity, bit by bit (R63): a bit is inverted exactly when SUPINV = 0. -/
theorem polarity_getLsbD (w : Word) (supinv : Bool) {i : Nat} (hi : i < 32) :
    (if supinv then w else ~~~w).getLsbD i = (w.getLsbD i ^^ !supinv) := by
  cases supinv <;> simp [hi]

/-- Settles O58: byte `b` of word `k` is found by position, and its bits by the two rules on byte order
and polarity. -/
theorem serializationIsBigEndian : Obligations.SerializationIsBigEndian := by
  intro ws supinv
  refine ⟨serialize_length ws supinv, fun k w hw b hb => ?_⟩
  refine ⟨_, (serialize_getElem? hw hb supinv).trans (be4_getElem? _ hb), fun j hj => ?_⟩
  rw [BitVec.getLsbD_extractLsb', polarity_getLsbD w supinv (by omega)]
  simp [hj]

end Sys2Proof.Machine
end

section
/-! Proofs about codewords (30_encoding.md R96 to R98, 42_codeword.md R140): the fields of `encodeCodeword`, the
address word's fields, and the place of the address word in a transmission. -/

namespace Sys2Proof.Machine

open Sys2Proof.Claims

/-- Bit `i` of the data is bit `11 + i` of the codeword (R140). -/
theorem encodeCodeword_getLsbD_data (d : BitVec 21) {i : Nat} (hi : i < 21) :
    (encodeCodeword d).getLsbD (11 + i) = d.getLsbD i := by
  simp [encodeCodeword, bitWord, hi, show 11 + i < 32 by omega, show 10 + i < 31 by omega]

/-- Bits 31:11 of a codeword are its data (R140). -/
@[simp] theorem encodeCodeword_extract_data (d : BitVec 21) : (encodeCodeword d).extractLsb' 11 21 = d := by
  refine BitVec.eq_of_getLsbD_eq fun i hi => ?_
  rw [BitVec.getLsbD_extractLsb', encodeCodeword_getLsbD_data d hi]
  simp [hi]

/-- Bits 10:1 of a codeword are the CRC of its data (R140). -/
@[simp] theorem encodeCodeword_extract_crc (d : BitVec 21) : (encodeCodeword d).extractLsb' 1 10 = crc d := by
  ext i hi
  have hword : 1 + i < 32 := by omega
  simp [encodeCodeword, bitWord, hword, hi]

/-- The flag of a codeword is the top bit of its data (R95). -/
theorem flag_encodeCodeword (d : BitVec 21) : flag (encodeCodeword d) = d.getLsbD 20 :=
  encodeCodeword_getLsbD_data d (i := 20) (by omega)

/-- The CRC of the preamble's data field (R98). -/
theorem crc_preData : crc 0x155555#21 = 0x38D#10 := by decide +kernel

/-- The preamble's CRC field is not the CRC of its data field, so no data value encodes to it (R98). -/
theorem encodeCodeword_ne_pre (d : BitVec 21) : encodeCodeword d ≠ Config.pre := by
  intro h
  have hdata : d = 0x155555#21 := by rw [← encodeCodeword_extract_data d, h]; decide
  have hcrc : crc d = 0x155#10 := by rw [← encodeCodeword_extract_crc d, h]; decide
  rw [hdata, crc_preData] at hcrc
  exact absurd hcrc (by decide)

/-- SYNC is the codeword of 0x0F9A42 (R98). -/
theorem encodeCodeword_eq_sync : encodeCodeword 0x0F9A42#21 = Config.sync := by decide +kernel

/-- IDLE is the codeword of 0x0F5138 (R98). -/
theorem encodeCodeword_eq_idle : encodeCodeword 0x0F5138#21 = Config.idle := by decide +kernel

/-- Settles O34: SYNC and IDLE are computed once as codewords, so their CRC fields are the CRCs of their data;
no data value encodes to the preamble by `encodeCodeword_ne_pre`. -/
theorem fixedWordsAsCodewords : Obligations.FixedWordsAsCodewords := by
  have hsync : crc 0x0F9A42#21 = Config.sync.extractLsb' 1 10 := by
    rw [← encodeCodeword_eq_sync, encodeCodeword_extract_crc]
  have hidle : crc 0x0F5138#21 = Config.idle.extractLsb' 1 10 := by
    rw [← encodeCodeword_eq_idle, encodeCodeword_extract_crc]
  exact ⟨rfl, encodeCodeword_eq_sync, rfl, rfl, hsync, rfl, rfl, encodeCodeword_eq_idle, rfl, rfl, hidle, rfl,
    rfl, rfl, rfl, crc_preData, rfl, encodeCodeword_ne_pre⟩

/-- The frame slot starts at twice the address modulo 8 (R180, R181). -/
theorem addressOffset_eq (address : BitVec 21) : addressOffset address = 2 * (address.toNat % 8) := by
  have hlow : (address &&& 7#21).toNat = address.toNat % 8 := Nat.and_two_pow_sub_one_eq_mod address.toNat 3
  rw [addressOffset, hlow, Nat.mul_comm]

/-- A transmission opens with SYNC, the IDLEs up to the frame slot and the address word (R210, R212). -/
theorem framed_eq_sync_idles_address (p : Config.Params) (num : Bool) (address : BitVec 21) (fc : BitVec 2)
    (t : List Byte) :
    ∃ rest, framed p num address fc t =
      Config.sync :: (List.replicate (addressOffset address) Config.idle ++ addressWord address fc :: rest) := by
  simp only [framed, framedBody, List.append_assoc, List.cons_append, List.nil_append, List.cons.injEq,
    true_and, List.append_cancel_left_eq, exists_eq']

/-- The address word's flag is 0: its data is below 2^20 (R96, R142). -/
theorem flag_addressWord (address : BitVec 21) (fc : BitVec 2) : flag (addressWord address fc) = false := by
  simp [addressWord, flag_encodeCodeword]

/-- Word bits 30:13 are the batch address (R96). -/
theorem addressWord_extract_batchAddress (address : BitVec 21) (fc : BitVec 2) :
    (addressWord address fc).extractLsb' 13 18 = address.extractLsb' 3 18 := by
  refine BitVec.eq_of_getLsbD_eq fun i hi => ?_
  have hbit : 13 + i = 11 + (2 + i) := by omega
  rw [BitVec.getLsbD_extractLsb', hbit, addressWord, encodeCodeword_getLsbD_data _ (by omega)]
  simp [hi, show 2 + i < 21 by omega, show 1 < 2 + i by omega]

/-- Word bits 12:11 are the function code (R96). -/
theorem addressWord_extract_functionCode (address : BitVec 21) (fc : BitVec 2) :
    (addressWord address fc).extractLsb' 11 2 = fc := by
  refine BitVec.eq_of_getLsbD_eq fun i hi => ?_
  rw [BitVec.getLsbD_extractLsb', addressWord, encodeCodeword_getLsbD_data _ (by omega)]
  simp [hi, show i < 21 by omega]

/-- Settles O50: the opening of the transmission gives each word its position, and the field lemmas of
`addressWord` say what it holds. -/
theorem addressWordStandsInItsFrame : Obligations.AddressWordStandsInItsFrame := by
  intro p num address fc t
  obtain ⟨rest, hframed⟩ := framed_eq_sync_idles_address p num address fc t
  rw [hframed, ← addressOffset_eq]
  refine ⟨rfl, fun k hk hkoff => ?_, addressWord address fc, by simp, flag_addressWord address fc,
    addressWord_extract_batchAddress address fc, addressWord_extract_functionCode address fc, ?_⟩
  · obtain ⟨j, rfl⟩ := Nat.exists_eq_add_of_le' hk
    have hj : j < addressOffset address := by omega
    simp [List.getElem?_append_left, hj, Config.idle]
  · rw [addressWord, encodeCodeword_extract_data]

end Sys2Proof.Machine
end

section
/-! Proofs about the CRC/parity engine (41_crc_parity.md R121 to R125): the division's columns are linear and
clear the dividend from the top, each keeps it modulo G, and the serial form agrees on the single bits. -/

namespace Sys2Proof.Machine

open Sys2Proof.Claims

/-- Adding `g` on a condition is linear: two conditions that both hold add it twice, which is nothing. -/
theorem ite_xor_distrib {w : Nat} (p q : Bool) (x y g : BitVec w) :
    (if p ^^ q then x ^^^ y ^^^ g else x ^^^ y) =
      (if p then x ^^^ g else x) ^^^ (if q then y ^^^ g else y) := by
  have htwice : x ^^^ g ^^^ (y ^^^ g) = x ^^^ y := by
    rw [BitVec.xor_comm y, BitVec.xor_assoc, ← BitVec.xor_assoc g, BitVec.xor_self, BitVec.zero_xor]
  cases p <;> cases q
  · rfl
  · exact BitVec.xor_assoc x y g
  · change x ^^^ y ^^^ g = x ^^^ g ^^^ y
    ac_rfl
  · exact htwice.symm

/-! ### The long division (R121) -/

/-- A column depends linearly on the dividend (R124). -/
theorem crcColumn_xor (a b : BitVec 31) (col : Nat) :
    crcColumn (a ^^^ b) col = crcColumn a col ^^^ crcColumn b col := by
  simp only [crcColumn, BitVec.getLsbD_xor, ite_xor_distrib]

theorem divide_xor (a b : BitVec 31) : divide (a ^^^ b) = divide a ^^^ divide b :=
  List.foldl_hom₂ _ _ _ _ _ a b fun a b col => (crcColumn_xor a b col).symm

/-- Column `col` clears bit `30 - col`, where G's x^10 term sits, and leaves the bits above it clear. -/
theorem crcColumn_clears {m : BitVec 31} {col : Nat} (hcol : col ≤ 20)
    (hm : ∀ i, 30 - col < i → m.getLsbD i = false) {i : Nat} (hi : 30 - col ≤ i) :
    (crcColumn m col).getLsbD i = false := by
  rw [crcColumn]
  obtain rfl | habove := hi.eq_or_lt
  · have hplace : 30 - col < 31 ∧ ¬ 30 - col < 20 - col ∧ 30 - col - (20 - col) < 31 := by omega
    have htop : Config.generator.getLsbD (30 - col - (20 - col)) = true := by
      rw [show 30 - col - (20 - col) = 10 by omega]
      rfl
    split
    case isTrue hbit => simp [hbit, hplace, htop]
    case isFalse hbit => simpa using hbit
  · have hpast : 11 ≤ i - (20 - col) := by omega
    split <;> simp [hm i habove, BitVec.getLsbD_of_ge Config.generator _ hpast]

/-- After `n` columns the top `n` bits of the dividend are clear. -/
theorem getLsbD_columns {n : Nat} (hn : n ≤ 21) (m : BitVec 31) {i : Nat} (hi : 31 - n ≤ i) :
    ((List.range n).foldl crcColumn m).getLsbD i = false := by
  induction n generalizing i with
  | zero => exact BitVec.getLsbD_of_ge m i hi
  | succ n ih =>
    rw [List.range_succ, List.foldl_concat]
    exact crcColumn_clears (by omega) (fun j hj => ih (by omega) (by omega)) (by omega)

/-- The division leaves at most 10 bits: "bits 30:10 are now all 0" (R121). -/
theorem getLsbD_divide (m : BitVec 31) {i : Nat} (hi : 10 ≤ i) : (divide m).getLsbD i = false :=
  getLsbD_columns le_rfl m hi

/-- The division leaves a dividend of at most 10 bits alone. -/
theorem divide_of_low {m : BitVec 31} (hm : ∀ i, 10 ≤ i → m.getLsbD i = false) : divide m = m := by
  refine List.foldlRecOn (motive := (· = m)) _ _ rfl fun x hx col hcol => ?_
  subst hx
  have hcol : col < 21 := List.mem_range.mp hcol
  rw [crcColumn, hm _ (by omega)]
  rfl

/-- `crc` is the whole of the division's result: nothing is lost by taking its low 10 bits. -/
theorem setWidth_crc (d : BitVec 21) : (crc d).setWidth 31 = divide (d.setWidth 31 <<< 10) := by
  refine BitVec.eq_of_getLsbD_eq fun i hi => ?_
  by_cases hlow : i < 10
  · simp [crc, hi, hlow]
  · simp [crc, hlow, getLsbD_divide _ (not_lt.mp hlow)]

/-! ### Division of a codeword and linearity (R123, R124) -/

/-- Appending the CRC to the data is adding it, since it stands below them (R123). -/
theorem shifted_or_crc (d : BitVec 21) :
    d.setWidth 31 <<< 10 ||| (crc d).setWidth 31 = d.setWidth 31 <<< 10 ^^^ (crc d).setWidth 31 := by
  ext i hi
  by_cases hlow : i < 10
  · simp [hlow]
  · simp [BitVec.getLsbD_of_ge (crc d) i (not_lt.mp hlow)]

theorem divide_shifted_or_crc (d : BitVec 21) :
    divide (d.setWidth 31 <<< 10 ||| (crc d).setWidth 31) = 0#31 := by
  rw [shifted_or_crc, divide_xor, setWidth_crc, divide_of_low fun i hi => getLsbD_divide _ hi,
    BitVec.xor_self]

theorem crc_xor (a b : BitVec 21) : crc (a ^^^ b) = crc a ^^^ crc b := by
  simp only [crc, BitVec.setWidth_xor, BitVec.shiftLeft_xor_distrib, divide_xor]

/-- A linear function is 0 at 0, as `crc(0) = 0` (R124). -/
theorem xorLinear_zero {w v : Nat} {f : BitVec w → BitVec v} (hf : ∀ a b, f (a ^^^ b) = f a ^^^ f b) :
    f 0#w = 0#v := by
  simpa using hf 0#w 0#w

/-- Settles O30: the division is linear and leaves the CRC itself alone, so on the codeword it gives the CRC twice
over; the single-bit values are computed. -/
theorem crcDividesAndIsLinear : Obligations.CrcDividesAndIsLinear :=
  ⟨divide_shifted_or_crc, crc_xor, xorLinear_zero crc_xor, by decide +kernel⟩

/-! ### The bit-serial form (R122) -/

/-- A shift depends linearly on the data and the register. -/
theorem crcSerialStep_xor (a b : BitVec 21) (r s : BitVec 10) (i : Nat) :
    crcSerialStep (a ^^^ b) (r ^^^ s) i = crcSerialStep a r i ^^^ crcSerialStep b s i := by
  have hfeedback : ((r ^^^ s).getLsbD 9 ^^ (a ^^^ b).getLsbD i) =
      ((r.getLsbD 9 ^^ a.getLsbD i) ^^ (s.getLsbD 9 ^^ b.getLsbD i)) := by
    simp [Bool.xor_left_comm]
  simp only [crcSerialStep, hfeedback, BitVec.shiftLeft_xor_distrib, ite_xor_distrib]

theorem crcSerial_xor (a b : BitVec 21) : crcSerial (a ^^^ b) = crcSerial a ^^^ crcSerial b :=
  List.foldl_hom₂ _ _ _ _ _ 0#10 0#10 fun r s i => (crcSerialStep_xor a b r s i).symm

/-- Two linear functions that agree on the single bits agree on every data value (R124's sum over the set bits,
one bit at a time from the top). -/
theorem eq_of_eq_on_singleBits {w v : Nat} {f g : BitVec w → BitVec v}
    (hf : ∀ a b, f (a ^^^ b) = f a ^^^ f b) (hg : ∀ a b, g (a ^^^ b) = g a ^^^ g b)
    (hbit : ∀ i < w, f (1#w <<< i) = g (1#w <<< i)) : f = g := by
  have hbelow (k : Nat) : k ≤ w → ∀ d : BitVec w, (∀ i, k ≤ i → d.getLsbD i = false) → f d = g d := by
    induction k with
    | zero =>
      intro _ d hd
      obtain rfl : d = 0#w := BitVec.eq_of_getLsbD_eq fun i _ => by simp [hd i]
      rw [xorLinear_zero hf, xorLinear_zero hg]
    | succ k ih =>
      intro hk d hd
      cases hset : d.getLsbD k
      case false =>
        exact ih (by omega) d fun i hi => hi.eq_or_lt.elim (· ▸ hset) (hd i)
      case true =>
        have hrest := ih (by omega) (d ^^^ 1#w <<< k) fun i hi => by
          obtain rfl | habove := hi.eq_or_lt
          · simp [hset, show k < w by omega]
          · simp [hd i habove, show i - k ≠ 0 by omega]
        have hsplit : d = (d ^^^ 1#w <<< k) ^^^ 1#w <<< k := by
          rw [BitVec.xor_assoc, BitVec.xor_self, BitVec.xor_zero]
        rw [hsplit, hf, hg, hrest, hbit k hk]
  exact funext fun d => hbelow w le_rfl d fun i hi => BitVec.getLsbD_of_ge d i hi

/-- Settles O29: both forms are linear in the data, and they agree on the 21 single bits. -/
theorem serialCrcIsTheSameFunction : Obligations.SerialCrcIsTheSameFunction :=
  congrFun (eq_of_eq_on_singleBits crcSerial_xor crc_xor (by decide +kernel))

/-! ### The remainder as a polynomial (R121) -/

/-- The polynomial over GF(2) whose coefficient of X^i is bit `i`, as the statement writes it. -/
noncomputable def toPoly {w : Nat} (x : BitVec w) : Polynomial (ZMod 2) :=
  ∑ i ∈ Finset.range w, if x.getLsbD i then Polynomial.X ^ i else 0

theorem coeff_toPoly {w : Nat} (x : BitVec w) (n : Nat) :
    (toPoly x).coeff n = if x.getLsbD n then 1 else 0 := by
  have hterm (i : Nat) : (if x.getLsbD i then (Polynomial.X : Polynomial (ZMod 2)) ^ i else 0).coeff n =
      if n = i then (if x.getLsbD n then 1 else 0) else 0 := by
    obtain rfl | hne := eq_or_ne n i
    · cases x.getLsbD n <;> simp
    · cases x.getLsbD i <;> simp [Polynomial.coeff_X_pow, hne]
  rw [toPoly, Polynomial.finsetSum_coeff, Finset.sum_congr rfl fun i _ => hterm i, Finset.sum_ite_eq]
  by_cases hn : n < w
  · rw [if_pos (Finset.mem_range.mpr hn)]
  · simp [BitVec.getLsbD_of_ge x n (not_lt.mp hn)]

theorem toPoly_xor {w : Nat} (a b : BitVec w) : toPoly (a ^^^ b) = toPoly a + toPoly b := by
  ext n
  rw [Polynomial.coeff_add, coeff_toPoly, coeff_toPoly, coeff_toPoly, BitVec.getLsbD_xor]
  cases a.getLsbD n <;> cases b.getLsbD n <;> decide

/-- A shift within the width multiplies by a power of X. -/
theorem toPoly_shiftLeft {w v k : Nat} (hk : w + k ≤ v) (x : BitVec w) :
    toPoly (x.setWidth v <<< k) = toPoly x * Polynomial.X ^ k := by
  ext n
  rw [Polynomial.coeff_mul_X_pow', coeff_toPoly, coeff_toPoly]
  by_cases hn : n - k < w
  · by_cases hkn : k ≤ n
    · simp [hkn, show n < v by omega]
    · simp [hkn]
  · simp [BitVec.getLsbD_of_ge x _ (not_lt.mp hn)]

theorem degree_toPoly_lt {w : Nat} (x : BitVec w) : (toPoly x).degree < w :=
  (Polynomial.degree_lt_iff_coeff_zero _ _).mpr fun n hn => by
    rw [coeff_toPoly, BitVec.getLsbD_of_ge x n hn]
    rfl

theorem coeff_toPoly_generator : (toPoly Config.generator).coeff 10 = 1 := by
  rw [coeff_toPoly]
  rfl

/-- G is monic of degree 10 (R120). -/
theorem monic_toPoly_generator : (toPoly Config.generator).Monic :=
  Polynomial.monic_of_degree_le 10
    (Order.le_of_lt_succ (degree_toPoly_lt Config.generator)) coeff_toPoly_generator

/-- A column subtracts a multiple of G or nothing. -/
theorem generator_dvd_crcColumn_sub {col : Nat} (hcol : col ≤ 20) (m : BitVec 31) :
    toPoly Config.generator ∣ toPoly (crcColumn m col) - toPoly m := by
  rw [crcColumn]
  split
  · rw [toPoly_xor, toPoly_shiftLeft (by omega), add_sub_cancel_left]
    exact dvd_mul_right _ _
  · simp

/-- The division keeps the dividend modulo G. -/
theorem generator_dvd_divide_sub (m : BitVec 31) :
    toPoly Config.generator ∣ toPoly (divide m) - toPoly m := by
  refine List.foldlRecOn (motive := fun x => toPoly Config.generator ∣ toPoly x - toPoly m) _ _ (by simp)
    fun x hx col hcol => ?_
  have hcol : col < 21 := List.mem_range.mp hcol
  rw [← sub_add_sub_cancel]
  exact dvd_add (generator_dvd_crcColumn_sub (by omega) x) hx

/-- As a polynomial, `crc` is the division's result. -/
theorem toPoly_crc (d : BitVec 21) : toPoly (crc d) = toPoly (divide (d.setWidth 31 <<< 10)) := by
  rw [← setWidth_crc]
  simpa using (toPoly_shiftLeft (k := 0) (v := 31) (by omega) (crc d)).symm

/-- Settles O28: the CRC differs from data * X^10 by a multiple of G and has a smaller degree than G, so it is
the remainder. -/
theorem crcIsThePolynomialRemainder : Obligations.CrcIsThePolynomialRemainder := by
  intro d
  change toPoly (crc d) = toPoly d * Polynomial.X ^ 10 %ₘ toPoly Config.generator
  have hdvd : toPoly Config.generator ∣ toPoly (crc d) - toPoly d * Polynomial.X ^ 10 := by
    rw [toPoly_crc, ← toPoly_shiftLeft (v := 31) (by omega)]
    exact generator_dvd_divide_sub _
  have hdegree : (toPoly (crc d)).degree < (toPoly Config.generator).degree :=
    (degree_toPoly_lt _).trans_le
      (Polynomial.le_degree_of_ne_zero (by rw [coeff_toPoly_generator]; exact one_ne_zero))
  rw [← Polynomial.modByMonic_eq_of_dvd_sub monic_toPoly_generator hdvd,
    (Polynomial.modByMonic_eq_self_iff monic_toPoly_generator).mpr hdegree]

/-! ### Parity (R125) -/

/-- An XOR-fold is the parity of the count. -/
theorem foldl_xor_eq_countP (f : Nat → Bool) (l : List Nat) (p : Bool) :
    l.foldl (fun p i => p ^^ f i) p = (p ^^ decide (l.countP f % 2 = 1)) := by
  induction l generalizing p with
  | nil => simp
  | cons i l ih =>
    rw [List.foldl_cons, ih, List.countP_cons]
    cases f i
    · simp
    · obtain heven | hodd := Nat.mod_two_eq_zero_or_one (l.countP f)
      · simp [Nat.add_mod, heven]
      · simp [Nat.add_mod, hodd]

theorem parity_eq (x : Word) : parity x = decide (popcount x % 2 = 1) := by
  rw [parity, foldl_xor_eq_countP, Bool.false_xor, popcount]

/-- Settles O31: the XOR-fold is the count modulo 2, and an odd count is made even by a further 1. -/
theorem parityIsTheOddCountBit : Obligations.ParityIsTheOddCountBit := by
  intro x
  rw [parity_eq, decide_eq_true_iff]
  refine ⟨Iff.rfl, ?_⟩
  obtain heven | hodd := Nat.mod_two_eq_zero_or_one (popcount x)
  · simp [heven]
  · simp [Nat.add_mod, hodd]

end Sys2Proof.Machine
end

section
/-! Proofs about the whole codeword (42_codeword.md R140, R141, R143): its 31 high bits, its parity bit and its
weight. The data and CRC fields are read by `encodeCodeword_extract_data` and `encodeCodeword_extract_crc`. -/

namespace Sys2Proof.Machine

open Sys2Proof.Claims

/-- Bits 31:1 of a codeword are `(data << 10) | crc` (R140). -/
theorem encodeCodeword_extract_high (d : BitVec 21) :
    (encodeCodeword d).extractLsb' 1 31 = d.setWidth 31 <<< 10 ||| (crc d).setWidth 31 := by
  ext i hi
  have hword : 1 + i < 32 := by omega
  simp [encodeCodeword, bitWord, hword, hi]

/-- A word shifted right by 1 is its 31 high bits. -/
theorem ushiftRight_one_eq_extract_high (x : Word) : x >>> 1 = (x.extractLsb' 1 31).setWidth 32 := by
  ext i hi
  by_cases hhigh : i < 31
  · simp [hhigh]
  · simp [hhigh, show 32 ≤ 1 + i by omega]

/-- Bit 0 of a codeword is the parity of the bits above it (R140). -/
theorem encodeCodeword_getLsbD_zero (d : BitVec 21) :
    (encodeCodeword d).getLsbD 0 = parity (encodeCodeword d >>> 1) := by
  rw [ushiftRight_one_eq_extract_high, encodeCodeword_extract_high]
  simp [encodeCodeword, bitWord]

/-- The weight of a word is that of its high bits and bit 0. -/
theorem popcount_eq_ushiftRight_one_add (x : Word) : popcount x = popcount (x >>> 1) + (x.getLsbD 0).toNat := by
  have hhigh : popcount (x >>> 1) = (List.range 31).countP fun i => x.getLsbD (i + 1) := by
    simp [popcount, List.range_succ (n := 31), Nat.add_comm 1]
  rw [hhigh, popcount, List.range_succ_eq_map, List.countP_cons, List.countP_map]
  cases x.getLsbD 0 <;> rfl

/-- A codeword's weight is even: its parity bit completes the weight of the bits above it (R141). -/
theorem popcount_encodeCodeword_even (d : BitVec 21) : popcount (encodeCodeword d) % 2 = 0 := by
  rw [popcount_eq_ushiftRight_one_add, encodeCodeword_getLsbD_zero]
  exact (parityIsTheOddCountBit (encodeCodeword d >>> 1)).2

/-- The 31 high bits of a codeword divide by G (R143). -/
theorem divide_encodeCodeword_high (d : BitVec 21) : divide ((encodeCodeword d).extractLsb' 1 31) = 0#31 := by
  rw [encodeCodeword_extract_high, divide_shifted_or_crc]

/-- Different data give different codewords: bits 31:11 return the data (R143). -/
theorem encodeCodeword_injective : Function.Injective encodeCodeword :=
  Function.LeftInverse.injective (g := BitVec.extractLsb' 11 21) encodeCodeword_extract_data

/-- Settles O32: the fields are read off `encodeCodeword`, the parity bit makes the weight even, the high bits are
the data with its CRC appended, which G divides, and the data field inverts the encoder. -/
theorem codewordLayoutAndWeight : Obligations.CodewordLayoutAndWeight :=
  ⟨fun d => ⟨encodeCodeword_extract_data d, encodeCodeword_extract_crc d, encodeCodeword_getLsbD_zero d,
    popcount_encodeCodeword_even d, divide_encodeCodeword_high d⟩, encodeCodeword_injective⟩

end Sys2Proof.Machine
end

section
/-! Proofs about the two bit sequences of a text (43_packers.md R151, R154, R155, R159): each character gives a
piece of one width, so a bit's position is found character by character. -/

namespace Sys2Proof.Machine

/-- Pieces of width `w` laid end to end: their length. -/
theorem length_flatMap_range {α β : Type} (w : Nat) (f : α → Nat → β) (l : List α) :
    (l.flatMap fun a => (List.range w).map (f a)).length = w * l.length := by
  simp [List.length_flatMap, Nat.mul_comm]

/-- Entry `j` of piece `k` stands at `w * k + j`. -/
theorem getElem?_flatMap_range {α β : Type} {w : Nat} (f : α → Nat → β) {l : List α} {k : Nat} {a : α}
    (ha : l[k]? = some a) {j : Nat} (hj : j < w) :
    (l.flatMap fun a => (List.range w).map (f a))[w * k + j]? = some (f a j) := by
  induction l generalizing k with
  | nil => simp at ha
  | cons b l ih =>
    rw [List.flatMap_cons]
    cases k with
    | zero =>
      obtain rfl : b = a := by simpa using ha
      simp [List.getElem?_append_left, hj]
    | succ k =>
      have hplace : w * (k + 1) + j = ((List.range w).map (f b)).length + (w * k + j) := by
        rw [List.length_map, List.length_range, Nat.mul_succ]; omega
      rw [hplace, List.getElem?_append_right (Nat.le_add_right _ _), Nat.add_sub_cancel_left]
      exact ih (by simpa using ha)

@[simp] theorem abits_length (t : List Byte) : (abits t).length = 7 * t.length :=
  length_flatMap_range 7 _ t

@[simp] theorem nbits_length (tab : Config.NumTab) (t : List Byte) : (nbits tab t).length = 4 * t.length :=
  length_flatMap_range 4 _ t

/-- `rev4` reflects the bit positions (R14). -/
theorem getLsbD_rev4 (n : Nibble) {i : Nat} (hi : i < 4) : (rev4 n).getLsbD i = n.getLsbD (3 - i) := by
  revert n i
  decide

/-- Settles O37: both sequences lay out pieces of one width, and the reversal in `encodeDigit` makes bit `j` of a
numeric piece bit `3 - j` of the table value. -/
theorem textBitSequences : Obligations.TextBitSequences := by
  intro tab t
  refine ⟨abits_length t, nbits_length tab t, fun k c hc => ?_⟩
  have hnum (j : Nat) (hj : j < 4) : (nbits tab t)[4 * k + j]? = some ((encodeDigit tab c).getLsbD j) :=
    getElem?_flatMap_range _ hc hj
  refine ⟨fun j hj => getElem?_flatMap_range _ hc hj, hnum, fun j hj => ?_⟩
  rw [hnum j hj, encodeDigit, getLsbD_rev4 _ hj]

end Sys2Proof.Machine
end

section
/-! Proofs about the packer's word count (43_packers.md R153, R157): what one `emit` adds, and the loop's count from
any working values. -/

namespace Sys2Proof.Machine

open Sys2Proof.Claims

/-- `emit` writes the message word, and SYNC when it ends the batch (R153). -/
theorem emitWords_length (payload : BitVec 20) {wpos : Nat} (hpos : wpos < 16) :
    (emitWords payload wpos).length = 1 + (wpos + 1) / 16 := by
  rw [emitWords, Config.batchWords]
  split
  case isTrue hend => simp [hend]
  case isFalse hend =>
    rw [Nat.div_eq_of_lt (by omega)]
    rfl

/-- `emit` moves to the next position of the batch (R153). -/
theorem emitPos_eq {wpos : Nat} (hpos : wpos < 16) : emitPos wpos = (wpos + 1) % 16 := by
  rw [emitPos, Config.batchWords]
  split <;> omega

/-- The law's recurrence: 20 more bits in front are one more `emit`. -/
theorem packedCount_add_payload (n wpos : Nat) :
    packedCount (n + 20) wpos = 1 + (wpos + 1) / 16 + packedCount n ((wpos + 1) % 16) := by
  simp only [packedCount, messageWords]
  omega

/-- The law for the loop with `n` bits already in the word buffer. -/
theorem packBits_length (bits : List Bool) {acc : BitVec 20} {n wpos : Nat} (hn : n < 20) (hpos : wpos < 16) :
    (packBits acc n wpos bits).length = packedCount (n + bits.length) wpos := by
  induction bits generalizing acc n wpos with
  | nil =>
    rw [packBits_nil, List.length_nil, Nat.add_zero]
    split
    case isTrue hflush =>
      have hword : messageWords n = 1 := by rw [messageWords]; omega
      rw [emitWords_length _ hpos, packedCount, hword]
    case isFalse hempty =>
      have hword : messageWords n = 0 := by rw [messageWords]; omega
      rw [packedCount, hword, Nat.zero_add, Nat.add_zero, Nat.div_eq_of_lt hpos]
      rfl
  | cons b bits ih =>
    rw [packBits_cons, List.length_cons]
    split
    case isTrue hfull =>
      have hnext : emitPos wpos < 16 := emitPos_eq hpos ▸ Nat.mod_lt _ (by decide)
      have hcount : n + (bits.length + 1) = bits.length + 20 := by omega
      rw [List.length_append, emitWords_length _ hpos, ih (by decide) hnext, emitPos_eq hpos, Nat.zero_add,
        hcount, packedCount_add_payload]
    case isFalse hroom =>
      rw [ih (by omega) hpos, Nat.add_right_comm, Nat.add_assoc]

theorem pack_length (bits : List Bool) {off : Nat} (hoff : off ≤ 15) :
    (pack bits off).length = packedCount bits.length off := by
  rw [pack, packBits_length bits (by decide) (by omega), Nat.zero_add]

/-- Five numeric characters fill a word: `ceil(4n / 20) = ceil(n / 5)` (R157). -/
theorem messageWords_four_mul (n : Nat) : messageWords (4 * n) = (n + 4) / 5 := by
  rw [messageWords]
  omega

/-- Settles O38: the loop's count from an empty buffer, at the lengths of the two bit sequences. -/
theorem packedWordCount : Obligations.PackedWordCount := by
  refine ⟨fun bits off hoff => pack_length bits hoff, fun tab t off hoff => ⟨?_, ?_⟩, fun off => rfl⟩
  · rw [pack_length _ hoff, abits_length]
  · rw [pack_length _ hoff, nbits_length, packedCount, messageWords_four_mul]

end Sys2Proof.Machine
end

section
/-! Proofs about the address parser's number (44_address_length.md R183): `decimal` answers exactly for the digit
texts, and its loop adds up the digits' places. -/

namespace Sys2Proof.Machine

open Sys2Proof.Claims

theorem isDigit_iff (c : Byte) : isDigit c = true ↔ 0x30 ≤ c.toNat ∧ c.toNat ≤ 0x39 := by
  simp [isDigit]

theorem decimal_of_isNumber {p : List Byte} (hp : IsNumber p) : decimal p = some (digitsValue p) := by
  have hdigits : p.all isDigit = true := List.all_eq_true.2 fun c hc => (isDigit_iff c).2 (hp.2 c hc)
  simp [decimal, hdigits, hp.1]

theorem decimal_of_not_isNumber {p : List Byte} (hp : ¬ IsNumber p) : decimal p = none := by
  refine if_pos ?_
  by_contra hpass
  obtain ⟨hne, hdigits⟩ : p ≠ [] ∧ ∀ c ∈ p, isDigit c = true := by simpa using hpass
  exact hp ⟨hne, fun c hc => (isDigit_iff c).1 (hdigits c hc)⟩

/-- One more digit at the end moves every place up by ten (R183's loop). -/
theorem digitsValue_append_singleton (p : List Byte) (c : Byte) :
    digitsValue (p ++ [c]) = digitsValue p * 10 + (c.toNat - 0x30) := by
  simp [digitsValue]

/-- The same step for R183's sum. -/
theorem decimalSum_append_singleton (p : List Byte) (c : Byte) :
    decimalSum (p ++ [c]) = decimalSum p * 10 + (c.toNat - 0x30) := by
  have hlast : (p ++ [c]).getD p.length 0#8 = c := by simp
  rw [decimalSum, List.length_append, List.length_singleton, Finset.sum_range_succ, hlast, Nat.add_sub_cancel,
    Nat.sub_self, Nat.pow_zero, Nat.mul_one, decimalSum, Finset.sum_mul]
  congr 1
  refine Finset.sum_congr rfl fun i hi => ?_
  have hi : i < p.length := Finset.mem_range.1 hi
  have hplace : p.length - i = p.length - 1 - i + 1 := by omega
  rw [List.getD_append _ _ _ _ hi, hplace, Nat.pow_succ, Nat.mul_assoc]

theorem digitsValue_eq_decimalSum (p : List Byte) : digitsValue p = decimalSum p := by
  induction p using List.reverseRecOn with
  | nil => rfl
  | append_singleton p c ih => rw [digitsValue_append_singleton, decimalSum_append_singleton, ih]

theorem parseAddress_of_decimal_none {t : List Byte} (ht : decimal (splitAddress t).1 = none) (strict : Bool) :
    parseAddress strict t = .error .addrSyntax := by
  rw [parseAddress, ht]

/-- Settles O43: `decimal` answers exactly for the digit texts, its value is R183's sum digit by digit, and the
parser reports the text it has no value for. -/
theorem decimalValueOfDigitTexts : Obligations.DecimalValueOfDigitTexts := by
  refine fun p => ⟨fun hp => ?_, decimal_of_not_isNumber, fun strict t ht hp => ?_⟩
  · rw [decimal_of_isNumber hp, digitsValue_eq_decimalSum]
  · exact parseAddress_of_decimal_none (ht ▸ decimal_of_not_isNumber hp) strict

end Sys2Proof.Machine
end

section
/-! Proofs about the length of a transmission (44_address_length.md R185 to R188, 45_framer.md R210 to R216): the
framer and the predictor both come to `transmissionCount`. -/

namespace Sys2Proof.Machine

open Sys2Proof.Claims

theorem textBits_length (tab : Config.NumTab) (num : Bool) (t : List Byte) :
    (textBits tab num t).length = t.length * if num then 4 else 7 := by
  cases num <;> simp [textBits, Nat.mul_comm]

/-- Before the padding, each 16 words begun have one SYNC besides (R210 to R214). -/
theorem framedBody_length (p : Config.Params) (num : Bool) (address : BitVec 21) (fc : BitVec 2)
    (t : List Byte) :
    (framedBody p num address fc t).length =
      unpaddedCount num address t.length + (unpaddedCount num address t.length + 15) / 16 := by
  have hoff := addressOffset_eq address
  have hpack := pack_length (textBits p.numTab num t) (off := addressOffset address + 1) (by omega)
  rw [textBits_length, packedCount] at hpack
  simp only [framedBody, List.length_append, List.length_replicate, List.length_singleton, hpack, unpaddedCount]
  omega

/-- The padding fills the last batch, and under PAD_STRICT a full one gets another (R187, R215). -/
theorem add_padCount (padStrict : Bool) (n : Nat) :
    n + (n + 15) / 16 + padCount padStrict (n + (n + 15) / 16) = 17 * batchCount padStrict n := by
  rw [padCount, batchCount]
  split
  case isTrue hstrict => omega
  case isFalse hloose => omega

theorem framed_length (p : Config.Params) (num : Bool) (address : BitVec 21) (fc : BitVec 2) (t : List Byte) :
    (framed p num address fc t).length = framedCount p.padStrict num address t.length := by
  rw [framed, List.length_append, List.length_replicate, framedBody_length, add_padCount, framedCount]

theorem preamble_length (ridx : Nat) : (preamble ridx).length = if ridx = 0 then 18 else 0 := by
  rw [preamble]
  split <;> rfl

theorem encodeTransmission_length (p : Config.Params) (num : Bool) (ridx : Nat) (address : BitVec 21)
    (fc : BitVec 2) (t : List Byte) :
    (encodeTransmission p num ridx address fc t).length =
      transmissionCount p.padStrict num ridx address t.length := by
  rw [encodeTransmission, List.length_append, preamble_length, framed_length, Nat.add_comm, transmissionCount]

/-- The predictor's formula (R185): 16 words and one SYNC a batch, and the preamble. -/
theorem msgLen_eq_transmissionCount (padStrict num : Bool) (ridx : Nat) (address : BitVec 21) (chars : Nat) :
    msgLen padStrict (if num then 4 else 7) ridx address chars =
      transmissionCount padStrict num ridx address chars := by
  have hcount : addressOffset address + 1 + ceilDiv (chars * if num then 4 else 7) 20 + 1 =
      unpaddedCount num address chars := by
    rw [addressOffset_eq]
    rfl
  have hbatches (n : Nat) : batches padStrict n = batchCount padStrict n := rfl
  rw [msgLen, hcount, hbatches, ← Nat.succ_mul]
  rfl

/-- Settles O47: framer and predictor come to the same count. -/
theorem predictedLengthIsTheTransmissionLength : Obligations.PredictedLengthIsTheTransmissionLength :=
  fun p num ridx address fc t => by rw [encodeTransmission_length, msgLen_eq_transmissionCount]

end Sys2Proof.Machine
end

section
/-! Proofs about the framer's batches (45_framer.md R216): a transmission is whole 17-word batches from its sync
word on. -/

namespace Sys2Proof.Machine

open Sys2Proof.Claims

theorem seventeen_dvd_framed_length (p : Config.Params) (num : Bool) (address : BitVec 21) (fc : BitVec 2)
    (t : List Byte) : 17 ∣ (framed p num address fc t).length := by
  rw [framed_length, framedCount]
  exact Nat.dvd_mul_right 17 _

/-- Settles O48: the padding completes the last batch, and the preamble adds its own words. -/
theorem transmissionIsAMultipleOf17 : Obligations.TransmissionIsAMultipleOf17 :=
  fun p num ridx address fc t =>
    ⟨Nat.mod_eq_zero_of_dvd (seventeen_dvd_framed_length p num address fc t),
      encodeTransmission_length p num ridx address fc t⟩

end Sys2Proof.Machine
end

section
/-! Proofs about the command word (30_encoding.md R81 to R92): the fields of an assembled word, a word from its
fields, and the one row a legal word matches. -/

namespace Sys2Proof.Machine

/-! ### The fields of an assembled word (R81, R101) -/

section Fields

variable (op : BitVec 4) (num strict supinv : Bool) (off : BitVec 4) (rc : BitVec 8)

@[simp] theorem opField_assembleWord : opField (assembleWord op num strict supinv off rc) = op := by
  refine BitVec.eq_of_getLsbD_eq fun i hi => ?_
  interval_cases i <;> simp [opField, assembleWord, bitWord]

@[simp] theorem numField_assembleWord : numField (assembleWord op num strict supinv off rc) = num := by
  simp [numField, assembleWord, bitWord]

@[simp] theorem strictField_assembleWord : strictField (assembleWord op num strict supinv off rc) = strict := by
  simp [strictField, assembleWord, bitWord]

@[simp] theorem supinvField_assembleWord : supinvField (assembleWord op num strict supinv off rc) = supinv := by
  simp [supinvField, assembleWord, bitWord]

@[simp] theorem offField_assembleWord : offField (assembleWord op num strict supinv off rc) = off := by
  refine BitVec.eq_of_getLsbD_eq fun i hi => ?_
  interval_cases i <;> simp [offField, assembleWord, bitWord]

@[simp] theorem rcField_assembleWord : rcField (assembleWord op num strict supinv off rc) = rc := by
  refine BitVec.eq_of_getLsbD_eq fun i hi => ?_
  interval_cases i <;> simp [rcField, assembleWord, bitWord]

theorem assembleWord_and_reservedMask : assembleWord op num strict supinv off rc &&& reservedMask = 0#32 := by
  refine BitVec.eq_of_getLsbD_eq fun i hi => ?_
  interval_cases i <;> simp [assembleWord, bitWord, reservedMask]

end Fields

/-- A word whose reserved bits are 0 is the assembly of its fields (R81, R88). -/
theorem assembleWord_fields {w : Word} (hw : w &&& reservedMask = 0#32) :
    assembleWord (opField w) (numField w) (strictField w) (supinvField w) (offField w) (rcField w) = w := by
  refine BitVec.eq_of_getLsbD_eq fun i hi => ?_
  have hbit : (w.getLsbD i && reservedMask.getLsbD i) = false := by rw [← BitVec.getLsbD_and, hw]; simp
  interval_cases i <;>
    simp_all [assembleWord, bitWord, reservedMask, opField, numField, strictField, supinvField, offField, rcField]

/-! ### The rows (R89, R90) -/

/-- A row's mask covers the OP field (R90). -/
theorem commandRow_mask_op {r : CommandRow} (hr : r ∈ commandRows) : r.mask &&& 0xF#32 = 0xF#32 :=
  (by decide : ∀ r ∈ commandRows, r.mask &&& 0xF#32 = 0xF#32) r hr

/-- A word in a row has the row's OP. -/
theorem accepts_op {r : CommandRow} (hr : r ∈ commandRows) {w : Word} (hw : r.accepts w = true) :
    w &&& 0xF#32 = r.value &&& 0xF#32 := by
  rw [← eq_of_beq hw, BitVec.and_assoc, commandRow_mask_op hr]

/-- A row's mask covers the reserved bits, which are 0 in its match (R88). -/
theorem commandRow_reserved :
    ∀ r ∈ commandRows, r.mask &&& reservedMask = reservedMask ∧ r.value &&& reservedMask = 0#32 := by
  decide

/-- Two rows have different OPs, so no word is in both (R90). -/
theorem commandRows_pairwise_disjoint :
    commandRows.Pairwise fun r q => ∀ w : Word, ¬(r.accepts w = true ∧ q.accepts w = true) := by
  have hop : commandRows.Pairwise fun r q => r.value &&& 0xF#32 ≠ q.value &&& 0xF#32 := by decide
  exact hop.imp_of_mem fun hr hq hne w ⟨hrw, hqw⟩ => hne (accepts_op hr hrw ▸ accepts_op hq hqw)

/-- Settles O3: the masks cover OP, and the 15 OPs are different. -/
theorem atMostOneCommandRowMatches : Obligations.AtMostOneCommandRowMatches :=
  ⟨commandRows_pairwise_disjoint, fun _ => commandRow_mask_op⟩

/-- The decoder reads a word by the row it is in, whichever place the row has in the list. -/
theorem decodeCommand_of_accepts {r : CommandRow} (hr : r ∈ commandRows) {w : Word} (hw : r.accepts w = true) :
    decodeCommand w = .ok (r.build w) := by
  obtain ⟨before, after, hrows⟩ := List.append_of_mem hr
  have hdisjoint := commandRows_pairwise_disjoint
  rw [hrows, List.pairwise_append] at hdisjoint
  obtain ⟨-, -, hcross⟩ := hdisjoint
  have hfind : commandRows.find? (fun r => r.accepts w) = some r := by
    refine List.find?_eq_some_iff_append.mpr ⟨hw, before, after, hrows, fun q hq => ?_⟩
    simpa [hw] using hcross q hq r List.mem_cons_self w
  rw [decodeCommand, hfind]

/-- The same by the row's place in R89's table, with the instruction the row builds. -/
theorem decodeCommand_of_row (k : Fin 15) {w : Word} {i : Instr}
    (hrow : w &&& commandRows[k].mask = commandRows[k].value) (hbuild : commandRows[k].build w = i) :
    decodeCommand w = .ok i :=
  hbuild ▸ decodeCommand_of_accepts (List.getElem_mem _) (beq_iff_eq.mpr hrow)

/-- A word the decoder accepts is in a row. -/
theorem exists_row_of_decodeCommand {w : Word} {i : Instr} (h : decodeCommand w = .ok i) :
    ∃ r ∈ commandRows, w &&& r.mask = r.value ∧ r.build w = i := by
  unfold decodeCommand at h
  cases hfind : commandRows.find? (fun r => r.accepts w) with
  | none => simp [hfind] at h
  | some r =>
    have hr : r.accepts w = true := by simpa using List.find?_some hfind
    exact ⟨r, List.mem_of_find?_eq_some hfind, eq_of_beq hr, by simpa [hfind] using h⟩

/-! ### Round trips -/

/-- Settles O1: a command's word is in its own row (`RowMatch`) and the row reads the operands back from the
word's fields; a host transaction's record holds the operands as they are. -/
theorem decodeOfEncodeIsIdentity : Obligations.DecodeOfEncodeIsIdentity := by
  intro i
  cases i with
  | nop => exact decodeCommand_of_row 0 Laws.RowMatch.nop rfl
  | crc => exact decodeCommand_of_row 1 Laws.RowMatch.crc rfl
  | par => exact decodeCommand_of_row 2 Laws.RowMatch.par rfl
  | cw => exact decodeCommand_of_row 3 Laws.RowMatch.cw rfl
  | digit st => exact decodeCommand_of_row 4 (Laws.RowMatch.digit st) (by simp [commandRows])
  | packa st off => exact decodeCommand_of_row 5 (Laws.RowMatch.packa st off) (by simp [commandRows])
  | packn st off => exact decodeCommand_of_row 6 (Laws.RowMatch.packn st off) (by simp [commandRows])
  | aoff => exact decodeCommand_of_row 7 Laws.RowMatch.aoff rfl
  | parse st => exact decodeCommand_of_row 8 (Laws.RowMatch.parse st) (by simp [commandRows])
  | tlen => exact decodeCommand_of_row 9 Laws.RowMatch.tlen rfl
  | nlen => exact decodeCommand_of_row 10 Laws.RowMatch.nlen rfl
  | etx n st => exact decodeCommand_of_row 11 (Laws.RowMatch.etx n st) (by simp [commandRows])
  | batch st su rc => exact decodeCommand_of_row 12 (Laws.RowMatch.batch st su rc) (by simp [commandRows])
  | ser su => exact decodeCommand_of_row 13 (Laws.RowMatch.ser su) (by simp [commandRows])
  | clr => exact decodeCommand_of_row 14 Laws.RowMatch.clr rfl
  | cmd | wr | rd | loada | loadm | push | mclr | readw | readb | reset => rfl

/-- What a word in a row holds in each of its fields: what the row's mask covers is the row's match. -/
theorem fields_of_masked {w mask value : Word} (h : w &&& mask = value) :
    opField w &&& opField mask = opField value ∧
    (numField w && numField mask) = numField value ∧
    (strictField w && strictField mask) = strictField value ∧
    (supinvField w && supinvField mask) = supinvField value ∧
    offField w &&& offField mask = offField value ∧
    rcField w &&& rcField mask = rcField value := by
  subst h
  simp [opField, numField, strictField, supinvField, offField, rcField, BitVec.extractLsb'_and]

/-- Settles O2: the word's fields are what its row's mask and match fix and its row's instruction reads, and the
word is made of its fields. -/
theorem legalCommandWordIsItsEncoding : Obligations.LegalCommandWordIsItsEncoding := by
  intro w i h
  obtain ⟨r, hr, hw, rfl⟩ := exists_row_of_decodeCommand h
  have hres : w &&& reservedMask = 0#32 := by
    obtain ⟨hmask, hvalue⟩ := commandRow_reserved r hr
    rw [← hmask, ← BitVec.and_assoc, hw, hvalue]
  obtain ⟨hop, hnum, hst, hsu, hoff, hrc⟩ := fields_of_masked hw
  have hones4 (x : BitVec 4) : x &&& 15#4 = x := BitVec.and_allOnes
  have hones8 (x : BitVec 8) : x &&& 255#8 = x := BitVec.and_allOnes
  refine Eq.trans ?_ (congrArg Encoded.command (assembleWord_fields hres))
  clear h hw hres
  simp only [commandRows, List.mem_cons, List.not_mem_nil, or_false] at hr
  obtain rfl | rfl | rfl | rfl | rfl | rfl | rfl | rfl | rfl | rfl | rfl | rfl | rfl | rfl | rfl := hr <;>
    simp_all [encode, opField, numField, strictField, supinvField, offField, rcField]

end Sys2Proof.Machine
end

section
/-! Proofs about which command words are legal (30_encoding.md R88, R89, R92), first field by field, then bit by
bit. -/

namespace Sys2Proof.Machine

/-- The operations that use a selector field set in the word (R89), and no reserved bit (R88, R92). -/
def LegalFields (w : Word) : Prop :=
  opField w ≠ 0xF#4 ∧ w &&& reservedMask = 0#32 ∧
  (numField w = true → opField w = 0xB#4) ∧
  (strictField w = true → opField w ∈ [0x4#4, 0x5#4, 0x6#4, 0x8#4, 0xB#4, 0xC#4]) ∧
  (supinvField w = true → opField w ∈ [0xC#4, 0xD#4]) ∧
  (offField w ≠ 0#4 → opField w ∈ [0x5#4, 0x6#4]) ∧
  (rcField w ≠ 0#8 → opField w = 0xC#4)

/-- A word an instruction encodes to is legal: the encoder sets only the fields its operation uses. -/
theorem legalFields_of_encode {i : Instr} {w : Word} (h : encode i = .command w) : LegalFields w := by
  cases i <;> simp only [encode, Encoded.command.injEq, reduceCtorEq] at h <;> subst h <;>
    simp [LegalFields, assembleWord_and_reservedMask]

/-- Fields that fit an operation make the word of that operation, which decodes. -/
theorem exists_decodeCommand_of_legalFields {w : Word} (h : LegalFields w) : ∃ i, decodeCommand w = .ok i := by
  obtain ⟨hop, hres, hnum, hst, hsu, hoff, hrc⟩ := h
  rw [← assembleWord_fields hres]
  generalize opField w = op, numField w = num, strictField w = st, supinvField w = su, offField w = off,
    rcField w = rc at *
  have hmem : ∀ op : BitVec 4, op ≠ 0xF#4 → op ∈ (List.range 15).map (BitVec.ofNat 4) := by decide
  obtain ⟨k, hk, rfl⟩ := List.mem_map.mp (hmem op hop)
  have hk : k < 15 := List.mem_range.mp hk
  interval_cases k <;> simp at hnum hst hsu hoff hrc <;> subst_vars
  · exact ⟨_, decodeOfEncodeIsIdentity .nop⟩
  · exact ⟨_, decodeOfEncodeIsIdentity .crc⟩
  · exact ⟨_, decodeOfEncodeIsIdentity .par⟩
  · exact ⟨_, decodeOfEncodeIsIdentity .cw⟩
  · exact ⟨_, decodeOfEncodeIsIdentity (.digit st)⟩
  · exact ⟨_, decodeOfEncodeIsIdentity (.packa st off)⟩
  · exact ⟨_, decodeOfEncodeIsIdentity (.packn st off)⟩
  · exact ⟨_, decodeOfEncodeIsIdentity .aoff⟩
  · exact ⟨_, decodeOfEncodeIsIdentity (.parse st)⟩
  · exact ⟨_, decodeOfEncodeIsIdentity .tlen⟩
  · exact ⟨_, decodeOfEncodeIsIdentity .nlen⟩
  · exact ⟨_, decodeOfEncodeIsIdentity (.etx num st)⟩
  · exact ⟨_, decodeOfEncodeIsIdentity (.batch st su rc)⟩
  · exact ⟨_, decodeOfEncodeIsIdentity (.ser su)⟩
  · exact ⟨_, decodeOfEncodeIsIdentity .clr⟩

theorem decodes_iff_legalFields (w : Word) : (∃ i, decodeCommand w = .ok i) ↔ LegalFields w :=
  ⟨fun ⟨i, hi⟩ => legalFields_of_encode (legalCommandWordIsItsEncoding w i hi),
    exists_decodeCommand_of_legalFields⟩

/-! ### The fields as bits of the word (R81) -/

theorem opField_eq_iff (w : Word) (op : BitVec 4) : opField w = op ↔ w.toNat % 16 = op.toNat := by
  rw [← BitVec.toNat_inj]
  simp [opField]

/-- A condition on a field that is not 0 is one on each bit set in it. -/
theorem extractLsb'_ne_zero_imp_iff {w : Word} {start len last : Nat} (hlast : start + len = last + 1) {P : Prop} :
    (w.extractLsb' start len ≠ 0#len → P) ↔ ∀ k, start ≤ k → k ≤ last → w.getLsbD k = true → P := by
  constructor
  · intro h k hle hlt hk
    refine h fun hzero => ?_
    have hbit := congrArg (·.getLsbD (k - start)) hzero
    simp [show k - start < len by omega, Nat.add_sub_cancel' hle, hk] at hbit
  · intro h hne
    by_contra hP
    refine hne (BitVec.eq_of_getLsbD_eq fun i hi => ?_)
    have hbit : w.getLsbD (start + i) = false :=
      Bool.eq_false_iff.2 fun hset => hP (h (start + i) (by omega) (by omega) hset)
    simp [hbit]

/-- The bits of R88: 7, 15:12 and 31:24. -/
theorem getLsbD_reservedMask {i : Nat} (hi : i < 32) :
    reservedMask.getLsbD i = true ↔ i = 7 ∨ (12 ≤ i ∧ i ≤ 15) ∨ (24 ≤ i ∧ i ≤ 31) := by
  revert i
  decide

theorem and_reservedMask_eq_zero_iff (w : Word) :
    w &&& reservedMask = 0#32 ↔
      w.getLsbD 7 = false ∧ (∀ k, 12 ≤ k → k ≤ 15 → w.getLsbD k = false) ∧
        (∀ k, 24 ≤ k → k ≤ 31 → w.getLsbD k = false) := by
  constructor
  · intro h
    have hbit (i : Nat) (hi : i < 32) (hres : reservedMask.getLsbD i = true) : w.getLsbD i = false := by
      simpa [hres] using congrArg (·.getLsbD i) h
    exact ⟨hbit 7 (by omega) rfl, fun k _ _ => hbit k (by omega) ((getLsbD_reservedMask (by omega)).2 (by omega)),
      fun k _ _ => hbit k (by omega) ((getLsbD_reservedMask (by omega)).2 (by omega))⟩
  · rintro ⟨h7, h12, h24⟩
    refine BitVec.eq_of_getLsbD_eq fun i hi => ?_
    rw [BitVec.getLsbD_and, BitVec.getLsbD_zero, Bool.and_eq_false_iff, or_iff_not_imp_right, Bool.not_eq_false,
      getLsbD_reservedMask hi]
    rintro (rfl | hmid | hhigh)
    · exact h7
    · exact h12 i hmid.1 hmid.2
    · exact h24 i hhigh.1 hhigh.2

/-- Settles O4: a word decodes exactly when its fields fit its operation, and each field is written out in bits. -/
theorem legalCommandWordsBitByBit : Obligations.LegalCommandWordsBitByBit := by
  intro w
  rw [decodes_iff_legalFields, LegalFields, and_reservedMask_eq_zero_iff, offField, rcField,
    extractLsb'_ne_zero_imp_iff (show 8 + 4 = 11 + 1 from rfl),
    extractLsb'_ne_zero_imp_iff (show 16 + 8 = 23 + 1 from rfl)]
  simp [opField_eq_iff, numField, strictField, supinvField, and_assoc]

/-- Settles O5: each word is looked up in the table. -/
theorem specCommandWordsDecode : Obligations.SpecCommandWordsDecode := by
  unfold Obligations.SpecCommandWordsDecode
  decide

/-- No kind above 9 has an arm (R250). -/
theorem decodeRecord_of_reserved {r : HostRecord} (h : 10 ≤ r.kind.toNat) :
    decodeRecord r = .error .reservedKind := by
  unfold decodeRecord
  split
  case h_11 => rfl
  all_goals omega

/-- Settles O6: the decoder looks at the kind alone. -/
theorem hostRecordKindsDecode : Obligations.HostRecordKindsDecode := by
  intro r
  refine ⟨?_, ?_, ?_, ?_, ?_, ?_, ?_, ?_, ?_, ?_, decodeRecord_of_reserved⟩ <;> intro h <;> simp [decodeRecord, h]

end Sys2Proof.Machine
end

section
/-! Proofs about what ends a transaction (47_control.md R250, R259, 60_exceptions.md R281), said in the words of the
statements: `done`, `faultedWith` and `refusedWith`, and the word a command latches in LASTCMD. -/

namespace Sys2Proof.Machine

open Sys2Proof.Claims

/-! ### The word a command latches (R101, R259) -/

/-- What LASTCMD holds after a command. -/
def latchedWord (i : Instr) : Word := i.commandWord.getD 0#32

/-- A field above the bits of `a` does not overlap them, so their union is their sum. -/
theorem ofNat_or_shiftLeft {a n k : Nat} (ha : a < 2 ^ k) (b : BitVec n) :
    BitVec.ofNat 32 a ||| b.setWidth 32 <<< k = BitVec.ofNat 32 (a + 2 ^ k * b.toNat) := by
  have hshift : b.setWidth 32 <<< k = BitVec.ofNat 32 (2 ^ k * b.toNat) := by
    apply BitVec.eq_of_toNat_eq
    rw [BitVec.toNat_shiftLeft, Nat.shiftLeft_eq, BitVec.toNat_setWidth, Nat.mod_mul_mod, BitVec.toNat_ofNat,
      Nat.mul_comm]
  rw [hshift, ← BitVec.ofNat_or, Nat.or_comm, ← Nat.two_pow_add_eq_or_of_lt ha, Nat.add_comm]

/-- The assembled word as a number (R101). -/
theorem assembleWord_eq_ofNat (op : BitVec 4) (num strict supinv : Bool) (off : BitVec 4) (rc : BitVec 8) :
    assembleWord op num strict supinv off rc =
      BitVec.ofNat 32 (op.toNat + 0x10 * num.toNat + 0x20 * strict.toNat + 0x40 * supinv.toNat +
        0x100 * off.toNat + 0x10000 * rc.toNat) := by
  have hop : op.setWidth 32 = BitVec.ofNat 32 op.toNat := (BitVec.ofNat_toNat 32 op).symm
  have hop4 := op.isLt
  have hnum := num.toNat_le
  have hst := strict.toNat_le
  have hsu := supinv.toNat_le
  have hoff := off.isLt
  rw [assembleWord, hop, bitWord, bitWord, bitWord, ofNat_or_shiftLeft (by omega),
    ofNat_or_shiftLeft (by simp; omega), ofNat_or_shiftLeft (by simp; omega),
    ofNat_or_shiftLeft (by simp; omega), ofNat_or_shiftLeft (by simp; omega)]
  simp


/-! The latched words with a selector (R89), in the form the statements write them. -/

@[simp] theorem latchedWord_digit (st : Bool) :
    latchedWord (.digit st) = BitVec.ofNat 32 (0x4 + 0x20 * st.toNat) := by
  simp [latchedWord, Instr.commandWord, encode, assembleWord_eq_ofNat]

@[simp] theorem latchedWord_packa (st : Bool) (off : BitVec 4) :
    latchedWord (.packa st off) = BitVec.ofNat 32 (0x5 + 0x20 * st.toNat + 0x100 * off.toNat) := by
  simp [latchedWord, Instr.commandWord, encode, assembleWord_eq_ofNat]

@[simp] theorem latchedWord_packn (st : Bool) (off : BitVec 4) :
    latchedWord (.packn st off) = BitVec.ofNat 32 (0x6 + 0x20 * st.toNat + 0x100 * off.toNat) := by
  simp [latchedWord, Instr.commandWord, encode, assembleWord_eq_ofNat]

@[simp] theorem latchedWord_parse (st : Bool) :
    latchedWord (.parse st) = BitVec.ofNat 32 (0x8 + 0x20 * st.toNat) := by
  simp [latchedWord, Instr.commandWord, encode, assembleWord_eq_ofNat]

@[simp] theorem latchedWord_etx (n st : Bool) :
    latchedWord (.etx n st) = BitVec.ofNat 32 (0xB + 0x10 * n.toNat + 0x20 * st.toNat) := by
  simp [latchedWord, Instr.commandWord, encode, assembleWord_eq_ofNat]

@[simp] theorem latchedWord_batch (st su : Bool) (rc : BitVec 8) :
    latchedWord (.batch st su rc) = batchWord st su rc := by
  simp [latchedWord, Instr.commandWord, encode, assembleWord_eq_ofNat, batchWord]

@[simp] theorem latchedWord_ser (su : Bool) :
    latchedWord (.ser su) = BitVec.ofNat 32 (0xD + 0x40 * su.toNat) := by
  simp [latchedWord, Instr.commandWord, encode, assembleWord_eq_ofNat]

/-! ### The ends of a command (R259, R281) -/

theorem complete_beginCommand (i : Instr) (s : State) :
    complete (beginCommand i s) = .next (done (latchedWord i) s.res s) := complete_next _

theorem completeWith_beginCommand (i : Instr) (v : Word) (s : State) :
    completeWith v (beginCommand i s) = .next (done (latchedWord i) v s) := completeWith_next v _

/-- STATUS's word as a number (R30). -/
theorem statusWord_eq_ofNat (err : BitVec 4) (fidx : BitVec 16) :
    statusWord err fidx = BitVec.ofNat 32 (err.toNat + 256 * fidx.toNat) := by
  rw [statusWord, BitVec.or_comm, ← BitVec.ofNat_toNat 32 err]
  exact ofNat_or_shiftLeft (by omega) fidx

/-- STICKY's bit as a number (R31). -/
theorem stickyBit_eq_ofNat (c : FaultCode) : stickyBit c = BitVec.ofNat 32 (2 ^ c.code.toNat) := by
  cases c <;> rfl

/-- Any state in which a fault is recorded (R281) once LASTCMD holds `w`. -/
theorem raise_latchWord (c : FaultCode) (x : BitVec 16) (w : Word) (s : State) :
    raise c x (s.latchWord w) = .next (faultedWith w c.code.toNat x.toNat s) := by
  rw [raise_next, statusWord_eq_ofNat, stickyBit_eq_ofNat]
  rfl

theorem raise_beginCommand (c : FaultCode) (x : BitVec 16) (i : Instr) (s : State) :
    raise c x (beginCommand i s) = .next (faultedWith (latchedWord i) c.code.toNat x.toNat s) :=
  raise_latchWord c x (latchedWord i) s

theorem refuse_eq_refusedWith (c : FaultCode) (s : State) : refuse c s = .next (refusedWith c.code.toNat s) := by
  rw [refuse_next, statusWord_eq_ofNat, stickyBit_eq_ofNat]
  rfl

end Sys2Proof.Machine
end

section
/-! Proofs about the host transactions (47_control.md R250 to R258, 70_reset_and_hazards.md R320) and the step. -/

namespace Sys2Proof.Machine

open Sys2Proof.Claims

/-- Settles O7: the three branches of the step. -/
theorem stepRunsTheDecodedInstruction : Obligations.StepRunsTheDecodedInstruction := by
  refine ⟨fun s r rest i hport hdec => ?_, fun s r rest hport hkind => ?_, fun s => step_idle⟩
  · rw [step_record hport, performRecord, hdec]
  · rw [step_record hport, performRecord, decodeRecord_of_reserved hkind]
    exact refuse_eq_refusedWith .illegalOp _

/-! ### Registers by id (R21, R33 to R36) -/

/-- What a register reads, id by id. -/
theorem readReg_toNat (reg : BitVec 4) (s : State) :
    (readReg reg s).toNat = (registerReadings s).getD reg.toNat 0 := by
  have hreg : reg.toNat < 16 := reg.isLt
  unfold readReg
  generalize reg.toNat = n at hreg
  interval_cases n <;> simp [registerReadings] <;> omega

/-- A register write replaces one entry of what the registers read. -/
theorem registerReadings_writeReg {reg : BitVec 4} {v : Word} {s t : State} (h : writeReg reg v s = some t) :
    registerReadings t = (registerReadings s).set reg.toNat (v.toNat % 2 ^ operandWidth reg) := by
  have hreg : reg.toNat < 16 := reg.isLt
  have hword : v.toNat % 4294967296 = v.toNat := Nat.mod_eq_of_lt v.isLt
  unfold writeReg at h
  unfold operandWidth
  generalize reg.toNat = n at h hreg
  interval_cases n <;> simp at h <;> subst h <;> simp [registerReadings, hword]

/-- Settles O22: the value returned is the register's. -/
theorem registerReadReturnsTheRegister : Obligations.RegisterReadReturnsTheRegister :=
  fun s reg => ⟨readReg reg s, rfl, readReg_toNat reg s⟩

theorem readReg_writeReg_self {reg : BitVec 4} {v : Word} {s t : State} (h : writeReg reg v s = some t) :
    readReg reg t = BitVec.ofNat 32 (v.toNat % 2 ^ operandWidth reg) := by
  have hreg : reg.toNat < (registerReadings s).length := reg.isLt
  apply BitVec.eq_of_toNat_eq
  rw [readReg_toNat, registerReadings_writeReg h, List.getD_eq_getElem?_getD, List.getElem?_set_self hreg,
    BitVec.toNat_ofNat, Nat.mod_eq_of_lt ((Nat.mod_le _ _).trans_lt v.isLt)]
  rfl

theorem readReg_writeReg_ne {reg q : BitVec 4} {v : Word} {s t : State} (h : writeReg reg v s = some t)
    (hne : q ≠ reg) : readReg q t = readReg q s := by
  apply BitVec.eq_of_toNat_eq
  rw [readReg_toNat, readReg_toNat, registerReadings_writeReg h, List.getD_eq_getElem?_getD,
    List.getElem?_set_ne fun heq => hne (BitVec.eq_of_toNat_eq heq.symm), List.getD_eq_getElem?_getD]

/-- Settles O21: a write to an id up to 6 replaces that register's reading alone, and there is no write to the
others. -/
theorem registerWriteStoresOrIsRefused : Obligations.RegisterWriteStoresOrIsRefused := by
  intro s reg v
  refine ⟨fun hreg => ?_, fun hreg => ?_⟩
  · obtain ⟨u, hu⟩ := Option.isSome_iff_exists.mp ((writeReg_isSome reg v s).trans (decide_eq_true hreg))
    have hexec : exec (.wr reg v) s = .next { u with reply := .nothing } := by
      change execWr reg v s = _
      rw [execWr, hu]
      rfl
    refine ⟨_, hexec, ?_, fun q hq => show readReg q u = _ from readReg_writeReg_ne hu hq, ?_⟩
    · rw [← readReg_writeReg_self hu]
      rfl
    · rw [writeReg_frame hu]
      exact ⟨rfl, rfl, rfl, rfl, rfl, rfl, rfl, rfl⟩
  · have hnone : writeReg reg v s = none := by
      rw [← Option.not_isSome_iff_eq_none, writeReg_isSome, decide_eq_true_iff]
      omega
    change execWr reg v s = _
    rw [execWr, hnone]
    exact refuse_eq_refusedWith .badReg s

/-! ### Texts (R253 to R255) -/

theorem addressTextFits_iff (t : List Byte) : addressTextFits t = true ↔ t.length ≤ 32 := decide_eq_true_iff

theorem messageTextFits_iff (t : List Byte) : messageTextFits t = true ↔ t.length ≤ 65535 := decide_eq_true_iff

/-- Settles O23: the length check decides between the load and the refusal. -/
theorem loadReplacesTheTextBuffer : Obligations.LoadReplacesTheTextBuffer := by
  refine fun s t => ⟨fun h => ?_, fun h => ?_, fun h => ?_, fun h => ?_⟩
  · exact if_neg (by simpa [addressTextFits_iff] using h)
  · rw [exec, execLoada, if_pos (by simpa [← Bool.not_eq_true, addressTextFits_iff] using h)]
    exact refuse_eq_refusedWith .textLen s
  · exact if_neg (by simpa [messageTextFits_iff] using h)
  · rw [exec, execLoadm, if_pos (by simpa [← Bool.not_eq_true, messageTextFits_iff] using h)]
    exact refuse_eq_refusedWith .textLen s

/-- Settles O24: the length check comes first, then the queue's. -/
theorem pushAppendsOneMessage : Obligations.PushAppendsOneMessage := by
  intro s n at' mt
  have hfits : (addressTextFits at' && messageTextFits mt) = true ↔ at'.length ≤ 32 ∧ mt.length ≤ 65535 := by
    rw [Bool.and_eq_true, addressTextFits_iff, messageTextFits_iff]
  rw [exec, execPush, Config.maxMsgs]
  refine ⟨fun ha hm hq => ?_, fun hlong => ?_, fun ha hm hq => ?_⟩
  · rw [hfits.mpr ⟨ha, hm⟩, if_neg (by decide), if_neg hq]
    rfl
  · have hlong : (addressTextFits at' && messageTextFits mt) = false := by
      rw [← Bool.not_eq_true, hfits]
      omega
    rw [hlong]
    exact refuse_eq_refusedWith .textLen s
  · rw [hfits.mpr ⟨ha, hm⟩, if_neg (by decide), if_pos hq]
    exact refuse_eq_refusedWith .overflow s

/-- Settles O25: each of the three answers at once, from the state it is given. -/
theorem queueClearAndBufferReads : Obligations.QueueClearAndBufferReads :=
  fun _ => ⟨rfl, rfl, rfl⟩

/-- Settles O26: the reset state with the port and the parameters put back, field by field. -/
theorem resetTransactionRestoresResetValues : Obligations.ResetTransactionRestoresResetValues :=
  fun _ => ⟨_, rfl, rfl, rfl, rfl, rfl, rfl, rfl, rfl, rfl, rfl, rfl,
    rfl, rfl, rfl, rfl, rfl, rfl, rfl, rfl, rfl, rfl⟩

end Sys2Proof.Machine
end

section
/-! Proofs about the commands that write one result (41_crc_parity.md R126, R127, 42_codeword.md R144, 43_packers.md
R160, 44_address_length.md R189 to R192, 47_control.md R260, R261, 46_batch.md R238). -/

namespace Sys2Proof.Machine

open Sys2Proof.Claims

/-- Settles O27: both end without a fault, and CLR's other writes are the two buffers. -/
theorem nopAndClrEffects : Obligations.NopAndClrEffects :=
  fun _ => ⟨rfl, rfl⟩

/-- Settles O33: the three functions' values by their own laws. -/
theorem crcParityCodewordCommands : Obligations.CrcParityCodewordCommands := by
  intro s
  have hparity : bitWord (parity s.px) = BitVec.ofNat 32 (popcount s.px % 2) := by
    rw [parity_eq]
    obtain heven | hodd := Nat.mod_two_eq_zero_or_one (popcount s.px)
    · rw [heven]; rfl
    · rw [hodd]; rfl
  have hserial := serialCrcIsTheSameFunction s.data
  refine ⟨?_, ?_, encodeCodeword s.data, completeWith_beginCommand .cw _ s, encodeCodeword_extract_data s.data, ?_,
    popcount_encodeCodeword_even s.data⟩
  · rw [hserial]
    exact completeWith_beginCommand .crc _ s
  · rw [← hparity]
    exact completeWith_beginCommand .par _ s
  · rw [hserial, encodeCodeword_extract_crc]

/-! ### The numeric table (R150, R152, R160) -/

theorem numericMappable_iff_mem (c : Byte) : numericMappable c = true ↔ c ∈ numericCharacters :=
  numericMappable_iff c

/-- Settles O36: each listed character is looked up, and no row holds any other. -/
theorem numericTableShape : Obligations.NumericTableShape := by
  intro tab c
  by_cases hc : c ∈ numericCharacters
  · simp only [numericCharacters, List.mem_cons, List.not_mem_nil, or_false] at hc
    obtain rfl | rfl | rfl | rfl | rfl | rfl | rfl | rfl | rfl | rfl | rfl | rfl | rfl | rfl | rfl | rfl | rfl | rfl |
      rfl := hc <;> rfl
  · have hnone : numericClass c = none := by
      rwa [← numericMappable_iff_mem, numericMappable, Option.not_isSome_iff_eq_none] at hc
    simp only [numericCharacters, List.mem_cons, List.not_mem_nil, or_false, not_or] at hc
    simp [tabLookup, hnone, hc]

/-- DIGIT's value has the table entry's bits reversed (R14, R151). -/
theorem setWidth_encodeDigit (tab : Config.NumTab) (c : Byte) :
    ((encodeDigit tab c).setWidth 32).toNat < 16 ∧
      ∀ k, k < 4 → ((encodeDigit tab c).setWidth 32).getLsbD k = (tabLookup tab c).getLsbD (3 - k) := by
  refine ⟨?_, fun k hk => ?_⟩
  · rw [BitVec.toNat_setWidth_of_le (by decide)]
    exact (encodeDigit tab c).isLt
  · rw [BitVec.getLsbD_setWidth, encodeDigit, getLsbD_rev4 _ hk]
    simp [show k < 32 by omega]

/-- Settles O35: the strict test is on the 19 characters, and the value is the table entry reversed. -/
theorem digitCommandReversesTheTableValue : Obligations.DigitCommandReversesTheTableValue := by
  intro s strict
  have hmap := numericMappable_iff_mem s.char
  refine ⟨fun hok => ⟨_, ?_, setWidth_encodeDigit s.params.numTab s.char⟩, fun hst hbad => ?_⟩
  · have hpass : (strict && !numericMappable s.char) = false := by
      obtain rfl | hmem := hok
      · rfl
      · rw [hmap.mpr hmem, Bool.not_true, Bool.and_false]
    rw [exec, execDigit, hpass, ← latchedWord_digit]
    rfl
  · subst hst
    have hfail : (true && !numericMappable s.char) = true := by simpa [← Bool.not_eq_true, hmap] using hbad
    rw [exec, execDigit, if_pos hfail, raise_beginCommand, latchedWord_digit]
    rfl

/-- Settles O42: the frame offset as twice the selector. -/
theorem frameOffsetCommand : Obligations.FrameOffsetCommand := by
  intro s
  rw [← addressOffset_eq]
  exact completeWith_beginCommand .aoff _ s

/-- The predicted length is R185's count for NCH characters. -/
theorem predictedLength_eq (num : Bool) (s : State) :
    predictedLength num s =
      BitVec.ofNat 32 (transmissionCount s.params.padStrict num s.ridx.toNat s.addr s.nch.toNat) := by
  rw [← msgLen_eq_transmissionCount]
  rfl

/-- A text's transmission needs at most 17 words for each 16 begun, and the preamble. -/
theorem transmissionCount_le (padStrict num : Bool) (ridx : Nat) (address : BitVec 21) (chars : Nat) :
    transmissionCount padStrict num ridx address chars ≤ 7 * chars + 100 := by
  have hpreamble : (if ridx = 0 then 18 else 0) ≤ 18 := by split <;> decide
  have hbits : (chars * if num then 4 else 7) ≤ 7 * chars := by split <;> omega
  have hbatches : batchCount padStrict (unpaddedCount num address chars) ≤
      unpaddedCount num address chars / 16 + 1 := by rw [batchCount]; split <;> omega
  have hunpadded : unpaddedCount num address chars ≤ 17 + (7 * chars + 19) / 20 := by
    rw [unpaddedCount, messageWords]; omega
  rw [transmissionCount, framedCount]
  omega

theorem exec_tlen (s : State) : exec .tlen s = .next (done (latchedWord .tlen) (predictedLength false s) s) :=
  completeWith_beginCommand .tlen _ s

theorem exec_nlen (s : State) : exec .nlen s = .next (done (latchedWord .nlen) (predictedLength true s) s) :=
  completeWith_beginCommand .nlen _ s

/-- Settles O46: both commands leave the predicted length, which 16 bits of NCH keep small. -/
theorem lengthCommandsPredict : Obligations.LengthCommandsPredict := by
  intro s
  rw [← predictedLength_eq, ← predictedLength_eq]
  refine ⟨exec_tlen s, exec_nlen s, (transmissionCount_le ..).trans_lt ?_⟩
  have hnch := s.nch.isLt
  omega

/-! ### SER (R233, R238) -/

theorem be4_not (w : Word) : be4 (~~~w) = (be4 w).map fun b => ~~~b := by
  have hbyte (k : Nat) (hk : k + 8 ≤ 32) : (~~~w).extractLsb' k 8 = ~~~(w.extractLsb' k 8) := by
    ext i hi
    simp [show k + i < 32 by omega]
  simp [be4, hbyte]

/-- The other polarity complements every byte (R63). -/
theorem map_not_serialize (ws : List Word) (supinv : Bool) :
    (serialize ws supinv).map (fun b => ~~~b) = serialize ws (!supinv) := by
  rw [serialize, List.map_flatMap, serialize]
  refine List.flatMap_congr fun w _ => ?_
  rw [← be4_not]
  cases supinv <;> simp

theorem exec_ser (supinv : Bool) (s : State) :
    exec (.ser supinv) s = .next
      { done (latchedWord (.ser supinv)) (BitVec.ofNat 32 s.outw.length) s with
        outb := serialize s.outw supinv } := rfl

/-- Settles O59: the bytes are `serialize`'s. -/
theorem serializeCommand : Obligations.SerializeCommand :=
  fun s supinv => ⟨serialize s.outw supinv, latchedWord_ser supinv ▸ exec_ser supinv s, serialize_length _ _,
    map_not_serialize _ _⟩

end Sys2Proof.Machine
end

section
/-! Proofs about the packer's words (43_packers.md R153, 30_encoding.md R97): what they carry and where SYNC stands,
for the loop from any working values. -/

namespace Sys2Proof.Machine

open Sys2Proof.Claims

/-! ### Message words (R97) -/

/-- A message word's flag is 1 (R95, R97). -/
@[simp] theorem flag_messageWord (p : BitVec 20) : flag (messageWord p) = true := by
  simp [messageWord, flag_encodeCodeword]

@[simp] theorem flag_sync : flag Config.sync = false := rfl

@[simp] theorem flag_idle : flag Config.idle = false := rfl

theorem messageWord_ne_sync (p : BitVec 20) : messageWord p ≠ Config.sync :=
  fun h => Bool.false_ne_true (flag_sync ▸ h ▸ flag_messageWord p)

/-- The top `n` bits of a word buffer that holds `n` bits, first bit first. -/
def bufferedBits (acc : BitVec 20) (n : Nat) : List Bool := (List.range n).map fun i => acc.getLsbD (n - 1 - i)

/-- A message word carries its payload, most significant bit first. -/
theorem payloadOf_messageWord (p : BitVec 20) : payloadOf (messageWord p) = bufferedBits p 20 := by
  refine List.map_congr_left fun i hi => ?_
  have hi : i < 20 := List.mem_range.mp hi
  have hbit : 30 - i = 11 + (19 - i) := by omega
  rw [hbit, messageWord, encodeCodeword_getLsbD_data _ (by omega)]
  rw [BitVec.getLsbD_or, BitVec.getLsbD_shiftLeft, BitVec.getLsbD_setWidth]
  simp [show 19 - i < 21 by omega, show 19 - i < 20 by omega]

/-- Shifting a bit in puts it last (R153). -/
theorem bufferedBits_shiftIn {n : Nat} (hn : n < 20) (acc : BitVec 20) (b : Bool) :
    bufferedBits (shiftIn acc b) (n + 1) = bufferedBits acc n ++ [b] := by
  rw [bufferedBits, List.range_succ, List.map_append, bufferedBits]
  congr 1
  · refine List.map_congr_left fun i hi => ?_
    have hi : i < n := List.mem_range.mp hi
    simp [shiftIn, show n - i < 20 by omega, show n - i ≠ 0 by omega, show n - i - 1 = n - 1 - i by omega,
      show n - 1 - i < 20 by omega]
  · simp [shiftIn]

/-- The flush fills the word with zeros (R153). -/
theorem bufferedBits_flush {n : Nat} (hn : n < 20) (acc : BitVec 20) :
    bufferedBits (acc <<< (20 - n)) 20 = bufferedBits acc n ++ List.replicate (20 - n) false := by
  refine List.ext_getElem (by simp [bufferedBits]; omega) fun i hi _ => ?_
  have hi : i < 20 := by simpa [bufferedBits] using hi
  by_cases hin : i < n
  · rw [List.getElem_append_left (by simpa [bufferedBits] using hin)]
    simp [bufferedBits, show 19 - i < 20 by omega, show ¬ 19 - i < 20 - n by omega,
      show 19 - i - (20 - n) = n - 1 - i by omega]
  · rw [List.getElem_append_right (by simpa [bufferedBits] using hin)]
    simp [bufferedBits, show 19 - i < 20 - n by omega]

/-! ### Carried bits -/

theorem carriedBits_append (us vs : List Word) : carriedBits (us ++ vs) = carriedBits us ++ carriedBits vs := by
  rw [carriedBits, List.filter_append, List.flatMap_append, carriedBits, carriedBits]

theorem carriedBits_of_flag_false {ws : List Word} (h : ∀ w ∈ ws, flag w = false) : carriedBits ws = [] := by
  rw [carriedBits, List.filter_eq_nil_iff.mpr fun w hw => by simp [h w hw], List.flatMap_nil]

/-- `emit` carries its payload: the SYNC it may add has flag 0. -/
theorem carriedBits_emitWords (p : BitVec 20) (wpos : Nat) : carriedBits (emitWords p wpos) = bufferedBits p 20 := by
  rw [emitWords, ← payloadOf_messageWord]
  split <;> simp [carriedBits]

/-- The loop's words carry the buffered bits, the bits still to come, and the zero pad. -/
theorem carriedBits_packBits (bits : List Bool) {acc : BitVec 20} {n wpos : Nat} (hn : n < 20) :
    carriedBits (packBits acc n wpos bits) =
      bufferedBits acc n ++ bits ++ List.replicate ((20 - (n + bits.length) % 20) % 20) false := by
  induction bits generalizing acc n wpos with
  | nil =>
    rw [packBits_nil]
    split
    case isTrue hflush =>
      have hpad : (20 - (n + ([] : List Bool).length) % 20) % 20 = 20 - n := by simp; omega
      rw [carriedBits_emitWords, bufferedBits_flush hn, hpad, List.append_nil]
    case isFalse hempty =>
      obtain rfl : n = 0 := by omega
      rfl
  | cons b bits ih =>
    rw [packBits_cons, List.length_cons]
    split
    case isTrue hfull =>
      have hpad : (20 - (n + (bits.length + 1)) % 20) % 20 = (20 - (0 + bits.length) % 20) % 20 := by omega
      have hword := bufferedBits_shiftIn hn acc b
      rw [hfull] at hword
      rw [carriedBits_append, carriedBits_emitWords, hword, ih (by decide), hpad]
      simp [bufferedBits]
    case isFalse hroom =>
      rw [ih (by omega), bufferedBits_shiftIn hn, Nat.add_right_comm, Nat.add_assoc]
      simp

theorem carriedBits_pack (bits : List Bool) (off : Nat) :
    carriedBits (pack bits off) = bits ++ List.replicate ((20 - bits.length % 20) % 20) false := by
  rw [pack, carriedBits_packBits bits (by decide), Nat.zero_add]
  rfl

/-! ### The words' forms -/

/-- A word the packer writes. -/
def IsPackedWord (w : Word) : Prop := w = Config.sync ∨ ∃ p, w = messageWord p

theorem isPackedWord_of_mem_emitWords {p : BitVec 20} {wpos : Nat} {w : Word} (hw : w ∈ emitWords p wpos) :
    IsPackedWord w := by
  rw [emitWords] at hw
  split at hw
  case isTrue =>
    obtain rfl | rfl := List.mem_pair.mp hw
    · exact .inr ⟨p, rfl⟩
    · exact .inl rfl
  case isFalse => exact .inr ⟨p, List.mem_singleton.mp hw⟩

theorem isPackedWord_of_mem_packBits (bits : List Bool) {acc : BitVec 20} {n wpos : Nat} {w : Word}
    (hw : w ∈ packBits acc n wpos bits) : IsPackedWord w := by
  induction bits generalizing acc n wpos with
  | nil =>
    rw [packBits_nil] at hw
    split at hw
    case isTrue => exact isPackedWord_of_mem_emitWords hw
    case isFalse => exact absurd hw List.not_mem_nil
  | cons b bits ih =>
    rw [packBits_cons] at hw
    split at hw
    case isTrue => exact (List.mem_append.mp hw).elim isPackedWord_of_mem_emitWords ih
    case isFalse => exact ih hw

/-- Settles O39: the loop's law from an empty buffer, and every word is SYNC or a message word. -/
theorem packingKeepsEveryBit : Obligations.PackingKeepsEveryBit := by
  refine fun bits off _ => ⟨carriedBits_pack bits off, fun w hw => ?_⟩
  obtain hsync | ⟨p, rfl⟩ := isPackedWord_of_mem_packBits bits hw
  · exact .inl hsync
  · exact .inr ⟨flag_messageWord p, by rw [messageWord, encodeCodeword_extract_data]⟩

/-! ### SYNC's places -/

/-- SYNC stands exactly at the positions that are a multiple of 17, where the first word has position `start`. -/
def SyncEvery17 (start : Nat) (ws : List Word) : Prop :=
  ∀ k w, ws[k]? = some w → (w = Config.sync ↔ (start + k) % 17 = 0)

theorem syncEvery17_nil (start : Nat) : SyncEvery17 start [] := by simp [SyncEvery17]

theorem syncEvery17_cons {start : Nat} {w : Word} {ws : List Word} (hw : w = Config.sync ↔ start % 17 = 0)
    (hws : SyncEvery17 (start + 1) ws) : SyncEvery17 start (w :: ws) := by
  intro k v hk
  cases k with
  | zero =>
    obtain rfl : w = v := by simpa using hk
    exact hw
  | succ k =>
    rw [← Nat.add_assoc, Nat.add_right_comm]
    exact hws k v (by simpa using hk)

/-- A message word stands at no multiple of 17, and a SYNC that ends the batch stands at the next one (R153). -/
theorem syncEvery17_emitWords_append {p : BitVec 20} {wpos : Nat} (hpos : wpos < 16) {ws : List Word}
    (hws : SyncEvery17 (emitPos wpos + 1) ws) : SyncEvery17 (wpos + 1) (emitWords p wpos ++ ws) := by
  have hword : messageWord p = Config.sync ↔ (wpos + 1) % 17 = 0 :=
    iff_of_false (messageWord_ne_sync p) (by omega)
  rw [emitWords, Config.batchWords]
  rw [emitPos, Config.batchWords] at hws
  split
  case isTrue hend =>
    rw [if_pos hend] at hws
    refine syncEvery17_cons hword (syncEvery17_cons (iff_of_true rfl (by omega)) fun k w hk => ?_)
    rw [hws k w hk]
    omega
  case isFalse hin =>
    rw [if_neg hin] at hws
    exact syncEvery17_cons hword hws

theorem syncEvery17_packBits (bits : List Bool) {acc : BitVec 20} {n wpos : Nat} (hpos : wpos < 16) :
    SyncEvery17 (wpos + 1) (packBits acc n wpos bits) := by
  induction bits generalizing acc n wpos with
  | nil =>
    rw [packBits_nil]
    split
    case isTrue =>
      rw [← List.append_nil (emitWords _ _)]
      exact syncEvery17_emitWords_append hpos (syncEvery17_nil _)
    case isFalse => exact syncEvery17_nil _
  | cons b bits ih =>
    rw [packBits_cons]
    split
    case isTrue =>
      have hnext : emitPos wpos < 16 := emitPos_eq hpos ▸ Nat.mod_lt _ (by decide)
      exact syncEvery17_emitWords_append hpos (ih hnext)
    case isFalse => exact ih hpos

/-- Settles O40: the loop's law with the first word at position `off + 1`. -/
theorem packerSyncPositions : Obligations.PackerSyncPositions :=
  fun bits _ k w hoff hk => syncEvery17_packBits bits (by omega) k w hk

end Sys2Proof.Machine
end

section
/-! Proofs about the framed part (45_framer.md R210 to R217): the bits it carries and where SYNC stands in it. -/

namespace Sys2Proof.Machine

open Sys2Proof.Claims

/-- SYNC, IDLE and the address word have flag 0, so the framed part carries what the packer's words carry. -/
theorem carriedBits_framed (p : Config.Params) (num : Bool) (address : BitVec 21) (fc : BitVec 2)
    (t : List Byte) :
    carriedBits (framed p num address fc t) =
      carriedBits (pack (textBits p.numTab num t) (addressOffset address + 1)) := by
  have hsync : carriedBits [Config.sync] = [] := carriedBits_of_flag_false (by simp)
  have haddress : carriedBits [addressWord address fc] = [] :=
    carriedBits_of_flag_false (by simp [flag_addressWord])
  have hidle (n : Nat) : carriedBits (List.replicate n Config.idle) = [] :=
    carriedBits_of_flag_false fun w hw => List.eq_of_mem_replicate hw ▸ flag_idle
  have hlast : carriedBits [Config.idle] = [] := hidle 1
  simp only [framed, framedBody, carriedBits_append, hsync, haddress, hidle, hlast, List.nil_append, List.append_nil]

/-- Settles O51: the packer keeps every bit, and the frame adds none. -/
theorem transmissionCarriesTheText : Obligations.TransmissionCarriesTheText :=
  fun p num address fc t => ⟨(20 - (textBits p.numTab num t).length % 20) % 20, Nat.mod_lt _ (by decide), by
    rw [carriedBits_framed, carriedBits_pack]⟩

/-! ### The 17-word blocks (R216, R217) -/

/-- SYNC, the IDLEs up to the frame slot and the address word (R210, R212). -/
def frameHeader (address : BitVec 21) (fc : BitVec 2) : List Word :=
  [Config.sync] ++ List.replicate (addressOffset address) Config.idle ++ [addressWord address fc]

theorem framedBody_eq (p : Config.Params) (num : Bool) (address : BitVec 21) (fc : BitVec 2) (t : List Byte) :
    framedBody p num address fc t =
      frameHeader address fc ++ pack (textBits p.numTab num t) (addressOffset address + 1) ++ [Config.idle] := rfl

theorem frameHeader_length (address : BitVec 21) (fc : BitVec 2) :
    (frameHeader address fc).length = addressOffset address + 2 := by
  simp [frameHeader]

/-- The terminating IDLE begins no block: the body's length is never 1 more than a multiple of 17. -/
theorem framedBody_length_mod (p : Config.Params) (num : Bool) (address : BitVec 21) (fc : BitVec 2)
    (t : List Byte) : (framedBody p num address fc t).length % 17 ≠ 1 := by
  rw [framedBody_length, unpaddedCount]
  omega

/-- SYNC opens every block of the body: the header is shorter than a block and opens with SYNC, and the packer
counts its first word as the one after the header. -/
theorem framedBody_getElem?_block (p : Config.Params) (num : Bool) (address : BitVec 21) (fc : BitVec 2)
    (t : List Byte) {k : Nat} (hk : 17 * k < (framedBody p num address fc t).length) :
    (framedBody p num address fc t)[17 * k]? = some Config.sync := by
  have hmod := framedBody_length_mod p num address fc t
  have hoff : addressOffset address + 1 < 16 := by rw [addressOffset_eq]; omega
  have hheader := frameHeader_length address fc
  have hsync := syncEvery17_packBits (textBits p.numTab num t) (acc := 0#20) (n := 0) hoff
  rw [framedBody_eq] at hk hmod ⊢
  change SyncEvery17 _ (pack _ _) at hsync
  cases k with
  | zero => rfl
  | succ k =>
    rw [List.length_append, List.length_singleton] at hk hmod
    have hbefore : 17 * (k + 1) < (frameHeader address fc ++
      pack (textBits p.numTab num t) (addressOffset address + 1)).length := by omega
    rw [List.getElem?_append_left hbefore, List.getElem?_append_right (by omega)]
    rw [List.length_append] at hbefore
    rw [List.getElem?_eq_getElem (by omega), Option.some_inj, hsync _ _ (List.getElem?_eq_getElem (by omega))]
    omega

/-- Settles O49: every block of the body opens with SYNC, and the padding begins a block only where PAD_STRICT adds
a whole one. -/
theorem everyBatchStartsWithSync : Obligations.EveryBatchStartsWithSync := by
  intro p num address fc t
  have hwhole := Nat.mod_eq_zero_of_dvd (seventeen_dvd_framed_length p num address fc t)
  have hlen : (framed p num address fc t).length = (framedBody p num address fc t).length +
      padCount p.padStrict (framedBody p num address fc t).length := by
    rw [framed, List.length_append, List.length_replicate]
  have hbody {k : Nat} (hk : 17 * k < (framedBody p num address fc t).length) :
      (framed p num address fc t)[17 * k]? = some Config.sync := by
    rw [framed, List.getElem?_append_left hk, framedBody_getElem?_block p num address fc t hk]
  refine ⟨hwhole, fun hcase k hk => hbody ?_, fun hstrict hfull => ⟨?_, fun k => hbody⟩⟩
  · have hpad : padCount p.padStrict (framedBody p num address fc t).length < 17 := by
      rw [padCount]
      split
      case isTrue hstrict =>
        have := hcase.resolve_left (by simp [hstrict])
        omega
      case isFalse => exact Nat.mod_lt _ (by decide)
    omega
  · rw [framed, padCount, if_pos hstrict, hfull]
    rfl

end Sys2Proof.Machine
end

section
/-! Proofs about the commands that append to OUTW (43_packers.md R161, R162, 45_framer.md R218, 60_exceptions.md R288,
R290, R292): PACKA, PACKN and ETX are one operation with different words. -/

namespace Sys2Proof.Machine

open Sys2Proof.Claims

/-- Every character passes its packer's test exactly when the text is mappable (R152). -/
theorem textMappable_iff (num : Bool) (t : List Byte) : textMappable num t = true ↔ Mappable num t := by
  cases num <;> simp [textMappable, Mappable, numericMappable_iff_mem, alphaMappable_iff]

/-- What PACKA, PACKN and ETX do with the words `ws` of the text in MTXT: BAD_CHAR in strict mode, then OVERFLOW,
then the append. -/
def appendText (i : Instr) (strict num : Bool) (ws : List Word) (s : State) : Out :=
  if strict && !textMappable num s.mtxt then raise .badChar 0#16 (beginCommand i s)
  else appendWords ws (beginCommand i s)

theorem exec_packa (strict : Bool) (off : BitVec 4) (s : State) :
    exec (.packa strict off) s =
      appendText (.packa strict off) strict false (pack (abits s.mtxt) off.toNat) s := rfl

theorem exec_packn (strict : Bool) (off : BitVec 4) (s : State) :
    exec (.packn strict off) s =
      appendText (.packn strict off) strict true (pack (nbits s.params.numTab s.mtxt) off.toNat) s := rfl

theorem exec_etx (num strict : Bool) (s : State) :
    exec (.etx num strict) s =
      appendText (.etx num strict) strict num
        (encodeTransmission s.params num s.ridx.toNat s.addr s.fc s.mtxt) s := rfl

section AppendText

variable {i : Instr} {strict num : Bool} {ws : List Word} {s : State}

theorem appendText_of_unmappable (hst : strict = true) (hbad : ¬ Mappable num s.mtxt) :
    appendText i strict num ws s = .next (faultedWith (latchedWord i) 5 0 s) := by
  have hfail : textMappable num s.mtxt = false := by rwa [← Bool.not_eq_true, textMappable_iff]
  rw [appendText, hst, hfail]
  exact raise_beginCommand .badChar 0#16 i s

theorem appendText_of_mappable (hok : strict = true → Mappable num s.mtxt) :
    appendText i strict num ws s = appendWords ws (beginCommand i s) := by
  rw [← textMappable_iff] at hok
  exact if_neg (by simpa using hok)

theorem appendText_of_fits (hok : strict = true → Mappable num s.mtxt)
    (hfit : s.outw.length + ws.length ≤ s.params.outCap) :
    appendText i strict num ws s =
      .next { done (latchedWord i) (BitVec.ofNat 32 ws.length) s with outw := s.outw ++ ws } := by
  rw [appendText_of_mappable hok]
  exact appendWords_next_of_fits (s := beginCommand i s) hfit

theorem appendText_of_overflow (hok : strict = true → Mappable num s.mtxt)
    (hover : s.params.outCap < s.outw.length + ws.length) :
    appendText i strict num ws s = .next (faultedWith (latchedWord i) 7 0 s) := by
  rw [appendText_of_mappable hok, appendWords]
  exact (if_pos hover).trans (raise_beginCommand .overflow 0#16 i s)

end AppendText

theorem pack_abits_length (t : List Byte) (off : BitVec 4) :
    (pack (abits t) off.toNat).length = packedCount (7 * t.length) off.toNat := by
  rw [pack_length _ (Nat.le_of_lt_succ off.isLt), abits_length]

theorem pack_nbits_length (tab : Config.NumTab) (t : List Byte) (off : BitVec 4) :
    (pack (nbits tab t) off.toNat).length = packedCount (4 * t.length) off.toNat := by
  rw [pack_length _ (Nat.le_of_lt_succ off.isLt), nbits_length]

/-- Settles O41: the words fit, and their number is the word count law's. -/
theorem packCommandsAppendTheirWords : Obligations.PackCommandsAppendTheirWords := by
  intro s strict off
  rw [exec_packa, exec_packn, ← pack_abits_length, ← pack_nbits_length s.params.numTab, ← latchedWord_packa,
    ← latchedWord_packn]
  exact ⟨appendText_of_fits, appendText_of_fits⟩

/-- Settles O52: the words fit, and their number is the predicted length. -/
theorem transmitCommandAppendsATransmission : Obligations.TransmitCommandAppendsATransmission := by
  intro s num strict
  rw [exec_etx, ← encodeTransmission_length _ _ _ _ s.fc, ← latchedWord_etx]
  exact appendText_of_fits

/-- Settles O53: BAD_CHAR is tested first, then the room in OUTW. -/
theorem appendingCommandsFaultWhole : Obligations.AppendingCommandsFaultWhole := by
  intro s strict num off
  rw [exec_packa, exec_packn, exec_etx, ← pack_abits_length, ← pack_nbits_length s.params.numTab,
    ← encodeTransmission_length _ _ _ _ s.fc, ← latchedWord_packa, ← latchedWord_packn, ← latchedWord_etx]
  refine ⟨fun hst hbad => ?_, appendText_of_overflow, fun hst hbad => ?_, appendText_of_overflow,
    fun hst hbad => ?_, appendText_of_overflow⟩
  · rw [appendText_of_unmappable hst hbad, hst, latchedWord_packa]
    rfl
  · rw [appendText_of_unmappable hst hbad, hst, latchedWord_packn]
    rfl
  · rw [appendText_of_unmappable hst hbad, hst, latchedWord_etx, Nat.add_right_comm]
    rfl

end Sys2Proof.Machine
end

section
/-! Proofs about PARSE (44_address_length.md R182 to R184, R190): how a text splits into its number and its letter. -/

namespace Sys2Proof.Machine

open Sys2Proof.Claims

theorem isFunctionLetter_iff (c : Byte) : isFunctionLetter c = true ↔ 0x41 ≤ c.toNat ∧ c.toNat ≤ 0x44 := by
  simp [isFunctionLetter]

/-- The last character decides (R182). -/
theorem splitAddress_append_singleton (p : List Byte) (c : Byte) :
    splitAddress (p ++ [c]) =
      if isFunctionLetter c then (p, BitVec.ofNat 2 (c.toNat - 0x41)) else (p ++ [c], 3#2) := by
  rw [splitAddress, List.getLast?_concat, List.dropLast_concat]

/-- The letters 'A' to 'D' number the function codes. -/
theorem letter_of_functionCode (fc : BitVec 2) :
    isFunctionLetter (BitVec.ofNat 8 (0x41 + fc.toNat)) = true ∧
      BitVec.ofNat 2 ((BitVec.ofNat 8 (0x41 + fc.toNat)).toNat - 0x41) = fc := by
  revert fc
  decide

theorem functionCode_of_letter {c : Byte} (hc : isFunctionLetter c = true) :
    BitVec.ofNat 8 (0x41 + (BitVec.ofNat 2 (c.toNat - 0x41)).toNat) = c := by
  rw [isFunctionLetter_iff] at hc
  apply BitVec.eq_of_toNat_eq
  rw [BitVec.toNat_ofNat, BitVec.toNat_ofNat]
  omega

/-- The parser takes an address form apart: a digit is no letter. -/
theorem splitAddress_of_addressForm {t p : List Byte} {fc : BitVec 2} (h : AddressForm t p fc) :
    splitAddress t = (p, fc) := by
  obtain ⟨⟨hne, hdigits⟩, rfl | ⟨rfl, rfl⟩⟩ := h
  · obtain ⟨hletter, hcode⟩ := letter_of_functionCode fc
    rw [splitAddress_append_singleton, if_pos hletter, hcode]
  · obtain ⟨q, c, rfl⟩ := List.eq_nil_or_concat' t |>.resolve_left hne
    have hc := hdigits c (by simp)
    have hnot : ¬ isFunctionLetter c = true := by rw [isFunctionLetter_iff]; omega
    rw [splitAddress_append_singleton, if_neg hnot]

/-- The parts the parser takes are an address form whenever the first is a number. -/
theorem addressForm_splitAddress {t : List Byte} (h : IsNumber (splitAddress t).1) :
    AddressForm t (splitAddress t).1 (splitAddress t).2 := by
  refine ⟨h, ?_⟩
  obtain rfl | ⟨p, c, rfl⟩ := List.eq_nil_or_concat' t
  · exact absurd rfl h.1
  · rw [splitAddress_append_singleton]
    split
    case isTrue hletter => exact .inl (by rw [functionCode_of_letter hletter])
    case isFalse => exact .inr ⟨rfl, rfl⟩

/-- A form's value, within 21 bits if the mode is strict, is accepted (R184). -/
theorem parseAddress_of_addressForm {strict : Bool} {t p : List Byte} {fc : BitVec 2} (h : AddressForm t p fc)
    (hrange : strict = true → decimalSum p ≤ 2097151) :
    parseAddress strict t = .ok (BitVec.ofNat 21 (decimalSum p), fc) := by
  rw [parseAddress, splitAddress_of_addressForm h, decimal_of_isNumber h.1, digitsValue_eq_decimalSum]
  refine if_neg ?_
  simpa using hrange

theorem parseAddress_of_wide {t p : List Byte} {fc : BitVec 2} (h : AddressForm t p fc)
    (hwide : 2097151 < decimalSum p) : parseAddress true t = .error .addrRange := by
  rw [parseAddress, splitAddress_of_addressForm h, decimal_of_isNumber h.1, digitsValue_eq_decimalSum]
  refine if_pos ?_
  simpa using hwide

theorem parseAddress_of_no_form {strict : Bool} {t : List Byte} (h : ¬ ∃ p fc, AddressForm t p fc) :
    parseAddress strict t = .error .addrSyntax :=
  parseAddress_of_decimal_none
    (decimal_of_not_isNumber fun hnum => h ⟨_, _, addressForm_splitAddress hnum⟩) strict

theorem exec_parse_of_ok {strict : Bool} {s : State} {a : BitVec 21} {fc : BitVec 2}
    (h : parseAddress strict s.atxt = .ok (a, fc)) :
    exec (.parse strict) s = .next
      { done (latchedWord (.parse strict)) (fc.setWidth 32 <<< 21 ||| a.setWidth 32) s with
        addr := a, fc := fc } := by
  rw [exec, execParse, h]
  rfl

theorem exec_parse_of_error {strict : Bool} {s : State} {c : FaultCode}
    (h : parseAddress strict s.atxt = .error c) :
    exec (.parse strict) s = .next (faultedWith (latchedWord (.parse strict)) c.code.toNat 0 s) := by
  rw [exec, execParse, h]
  exact raise_beginCommand c 0#16 _ s

/-- Settles O44: the form's value is accepted, and RES is the code above the address. -/
theorem parseCommandAcceptsAddresses : Obligations.ParseCommandAcceptsAddresses := by
  intro s strict p fc hform hrange
  have hres : fc.setWidth 32 <<< 21 ||| (BitVec.ofNat 21 (decimalSum p)).setWidth 32 =
      BitVec.ofNat 32 (fc.toNat * 2 ^ 21 + decimalSum p % 2 ^ 21) := by
    rw [BitVec.or_comm, ← BitVec.ofNat_toNat 32 (BitVec.ofNat 21 _), ofNat_or_shiftLeft (BitVec.isLt _),
      BitVec.toNat_ofNat, Nat.add_comm, Nat.mul_comm]
  rw [exec_parse_of_ok (parseAddress_of_addressForm hform hrange), hres, latchedWord_parse]

/-- Settles O45: the parser's two errors. -/
theorem parseCommandFaults : Obligations.ParseCommandFaults := by
  refine fun s strict => ⟨fun h => ?_, fun p fc hform hst hwide => ?_⟩
  · rw [exec_parse_of_error (parseAddress_of_no_form h), latchedWord_parse]
    rfl
  · subst hst
    rw [exec_parse_of_error (parseAddress_of_wide hform hwide), latchedWord_parse]
    rfl

end Sys2Proof.Machine
end

section
/-! Proofs about BATCH (46_batch.md R230 to R237, 70_reset_and_hazards.md R326): the orchestrator's loop stands, after
the messages it has taken, at the stream of those messages. -/

namespace Sys2Proof.Machine

open Sys2Proof.Claims

section Stream

variable {p : Config.Params} {strict : Bool} {rc : Nat}

/-- From running index 0 the first repeat alone has the preamble (R211, R231). -/
theorem repeats_eq (idx : Nat) (num : Bool) (a : BitVec 21) (fc : BitVec 2) (t : List Byte) :
    repeats p rc idx num a fc t =
      (if rc = 0 ∨ idx ≠ 0 then [] else List.replicate 18 Config.pre) ++
        (List.replicate rc (framed p num a fc t)).flatten := by
  cases rc with
  | zero => rfl
  | succ rc =>
    have hlater (r : Nat) : encodeTransmission p num (idx + (r + 1)) a fc t = framed p num a fc t := by
      rw [encodeTransmission, preamble, if_neg (by omega), List.nil_append]
    have hfirst : encodeTransmission p num (idx + 0) a fc t =
        (if rc + 1 = 0 ∨ idx ≠ 0 then [] else List.replicate 18 Config.pre) ++ framed p num a fc t := by
      rw [encodeTransmission, preamble]
      by_cases hidx : idx = 0 <;> simp [hidx, Config.preN]
    rw [repeats, List.range_succ_eq_map, List.flatMap_cons, List.flatMap_map, hfirst, List.replicate_succ (n := rc),
      List.flatten_cons, List.append_assoc]
    simp only [Nat.succ_eq_add_one, hlater, List.flatMap_def, List.map_const', List.length_range]

/-- The stream grows at its end by the next message's repeats, at the running index R232 gives them. -/
theorem batchStream_append_singleton (before : List Message) (m : Message) :
    batchStream p rc (before ++ [m]) =
      batchStream p rc before ++
        repeats p rc (rc * before.length) m.isNumeric (addressOf m.addressText).1 (addressOf m.addressText).2
          m.messageText := by
  rw [repeats_eq]
  cases before with
  | nil => simp [batchStream, Config.pre]
  | cons b before =>
    have hlater : rc = 0 ∨ rc * (b :: before).length ≠ 0 := by simp [Classical.em]
    rw [if_pos hlater]
    simp [batchStream]

/-- The address a parse gives does not depend on the mode. -/
theorem addressOf_of_parse {t : List Byte} {x : BitVec 21 × BitVec 2} (h : parseAddress strict t = .ok x) :
    addressOf t = x := by
  obtain ⟨-, hr⟩ | ⟨v, -, -, -, hr⟩ | ⟨v, hv, -, hr⟩ := parseAddress_cases h
  · cases hr
  · cases hr
  · cases hr
    rw [addressOf, parseAddress, hv]
    rfl

/-- An accepted message gives its repeats. -/
theorem encodeMessage_of_accepted {m : Message} (h : Accepted strict m) (idx : Nat) :
    encodeMessage p strict rc idx m =
      .ok (repeats p rc idx m.isNumeric (addressOf m.addressText).1 (addressOf m.addressText).2 m.messageText) := by
  obtain ⟨⟨x, hx⟩, hmap⟩ := h
  rw [← textMappable_iff] at hmap
  rw [encodeMessage, hx, addressOf_of_parse hx]
  exact if_neg (by simpa using hmap)

/-- Messages that are accepted and fit are taken one after the other: the loop goes on behind them. -/
theorem orchestrateFrom_append (before rest : List Message) (hacc : ∀ m ∈ before, Accepted strict m)
    (hfit : (batchStream p rc before).length ≤ p.outCap) :
    orchestrateFrom p strict rc 0 0 [] (before ++ rest) =
      orchestrateFrom p strict rc before.length (rc * before.length) (batchStream p rc before) rest := by
  induction before using List.reverseRecOn generalizing rest with
  | nil => simp [batchStream]
  | append_singleton before m ih =>
    rw [batchStream_append_singleton, List.length_append] at hfit
    rw [List.append_assoc, List.singleton_append, ih _ (fun x hx => hacc x (by simp [hx])) (by omega), orchestrateFrom,
      encodeMessage_of_accepted (hacc m (by simp))]
    rw [batchStream_append_singleton, List.length_append, List.length_singleton, Nat.mul_succ]
    exact if_neg (by omega)

end Stream

theorem orchestrate_of_ne {p : Config.Params} {strict : Bool} {rc : Nat} {q : List Message}
    (h : strict = true → q ≠ []) : orchestrate p strict rc q = orchestrateFrom p strict rc 0 0 [] q :=
  if_neg (by simpa using h)

theorem exec_batch_of_none {strict supinv : Bool} {rc : BitVec 8} {s : State} {ws : List Word}
    (h : orchestrate s.params strict rc.toNat s.msgq = (ws, none)) :
    exec (.batch strict supinv rc) s = .next
      { done (batchWord strict supinv rc) (BitVec.ofNat 32 ws.length) s with
        outw := ws, outb := serialize ws supinv } := by
  rw [exec, execBatch, h, ← latchedWord_batch]
  rfl

theorem exec_batch_of_some {strict supinv : Bool} {rc : BitVec 8} {s : State} {ws : List Word} {c : FaultCode}
    {j : Nat} (h : orchestrate s.params strict rc.toNat s.msgq = (ws, some (c, j))) :
    exec (.batch strict supinv rc) s = .next
      { faultedWith (batchWord strict supinv rc) c.code.toNat (BitVec.ofNat 16 j).toNat s with
        outw := ws, outb := serialize ws supinv } := by
  rw [exec, execBatch, h, ← latchedWord_batch]
  exact raise_latchWord c (BitVec.ofNat 16 j) _ (writeBatch ws supinv s)

/-- Settles O54: the loop takes the whole queue. -/
theorem batchEncodesTheWholeQueue : Obligations.BatchEncodesTheWholeQueue := by
  intro s strict supinv rc hne hacc hfit
  refine exec_batch_of_none ?_
  have hloop := orchestrateFrom_append s.msgq [] hacc hfit
  rw [List.append_nil] at hloop
  rw [orchestrate_of_ne hne, hloop]
  rfl

/-- Settles O55: the loop takes the messages before the failing one and stops there. -/
theorem batchStopsAtTheFirstFailure : Obligations.BatchStopsAtTheFirstFailure := by
  intro s strict supinv rc before after m c hcap hq hacc hfit hfail
  have hlen : before.length < s.msgq.length := by rw [hq]; simp
  have hindex : (BitVec.ofNat 16 before.length).toNat = before.length := by
    rw [BitVec.toNat_ofNat, Nat.mod_eq_of_lt (by omega)]
  rw [← hindex]
  refine exec_batch_of_some ?_
  rw [orchestrate_of_ne (by rw [hq]; simp), hq, orchestrateFrom_append before _ hacc hfit, orchestrateFrom]
  obtain hparse | ⟨⟨x, hx⟩, hst, hbad, rfl⟩ | ⟨hm, hover, rfl⟩ := hfail
  · rw [encodeMessage, hparse]
  · have hfail : textMappable m.isNumeric m.messageText = false := by rwa [← Bool.not_eq_true, textMappable_iff]
    rw [encodeMessage, hx, hst, hfail]
    rfl
  · rw [batchStream_append_singleton, List.length_append] at hover
    rw [encodeMessage_of_accepted hm]
    exact if_pos hover

/-- Settles O56: the orchestrator's two answers for an empty queue, by the mode. -/
theorem batchOfAnEmptyQueue : Obligations.BatchOfAnEmptyQueue := by
  intro s supinv rc hq
  have hdefault : orchestrate s.params false rc.toNat s.msgq = ([], none) := by rw [hq]; rfl
  have hstrict : orchestrate s.params true rc.toNat s.msgq = ([], some (.emptyList, 0)) := by rw [hq]; rfl
  exact ⟨exec_batch_of_none hdefault, exec_batch_of_some hstrict⟩

/-- Settles O57: the stream's parts have the framer's lengths. -/
theorem batchWordCount : Obligations.BatchWordCount := by
  intro p rc q
  rw [batchStream, List.length_append, List.length_flatMap]
  congr 1
  · split <;> rfl
  · simp [framed_length]

end Sys2Proof.Machine
end

section
/-! What an instruction can do, said once: every way a command or a host transaction can end, with all it writes
(47_control.md R250 to R261, 60_exceptions.md R281). The rules about the whole machine are read off these ends. -/

namespace Sys2Proof.Machine

open Sys2Proof.Claims

/-! ### Commands -/

/-- The commands that append to OUTW. -/
def IsAppending (i : Instr) : Prop :=
  (∃ st off, i = .packa st off) ∨ (∃ st off, i = .packn st off) ∨ ∃ n st, i = .etx n st

/-- The faults a command's own rule can raise (R285 to R290). -/
def CanFault (i : Instr) : FaultCode → Prop
  | .addrSyntax => (∃ st, i = .parse st) ∨ ∃ st su rc, i = .batch st su rc
  | .overflow => IsAppending i ∨ ∃ st su rc, i = .batch st su rc
  | .addrRange | .emptyList | .badChar => strictOf i = true
  | .illegalOp | .textLen | .badReg => False

/-- The states a command can end in. -/
inductive CommandEnds (i : Instr) (s : State) : State → Prop where
  /-- A result in RES alone; NOP's is the old RES. -/
  | result (v : Word) (hnop : i = .nop → v = s.res) : CommandEnds i s (done (latchedWord i) v s)
  | appended (v : Word) (ws : List Word) (hi : IsAppending i)
      (hfit : s.outw.length + ws.length ≤ s.params.outCap) :
      CommandEnds i s { done (latchedWord i) v s with outw := s.outw ++ ws }
  | parsed (v : Word) (a : BitVec 21) (fc : BitVec 2) (st : Bool) (hi : i = .parse st) :
      CommandEnds i s { done (latchedWord i) v s with addr := a, fc := fc }
  | serialized (v : Word) (su : Bool) (hi : i = .ser su) :
      CommandEnds i s { done (latchedWord i) v s with outb := serialize s.outw su }
  | cleared (hi : i = .clr) : CommandEnds i s { done (latchedWord i) 0#32 s with outw := [], outb := [] }
  | batched (v : Word) (ws : List Word) (st su : Bool) (rc : BitVec 8) (hi : i = .batch st su rc)
      (hfit : ws.length ≤ s.params.outCap) :
      CommandEnds i s { done (latchedWord i) v s with outw := ws, outb := serialize ws su }
  | faulted (c : FaultCode) (hc : CanFault i c) :
      CommandEnds i s (faultedWith (latchedWord i) c.code.toNat (0#16).toNat s)
  /-- BATCH keeps the output of the messages before the failing one (R236). -/
  | batchFaulted (c : FaultCode) (x : BitVec 16) (ws : List Word) (st su : Bool) (rc : BitVec 8)
      (hi : i = .batch st su rc) (hc : CanFault i c) (hx : x = 0#16 ∨ x.toNat < s.msgq.length)
      (hfit : ws.length ≤ s.params.outCap) :
      CommandEnds i s { faultedWith (latchedWord i) c.code.toNat x.toNat s with
        outw := ws, outb := serialize ws su }

theorem appendText_ends {i : Instr} {strict : Bool} (hi : IsAppending i) (hst : strictOf i = strict) (num : Bool)
    (ws : List Word) (s : State) : ∃ t, appendText i strict num ws s = .next t ∧ CommandEnds i s t := by
  by_cases hok : strict = true → Mappable num s.mtxt
  · by_cases hover : s.params.outCap < s.outw.length + ws.length
    · exact ⟨_, appendText_of_overflow hok hover, .faulted .overflow (.inl hi)⟩
    · exact ⟨_, appendText_of_fits hok (by omega), .appended _ ws hi (by omega)⟩
  · obtain ⟨hstrict, hbad⟩ := Classical.not_imp.mp hok
    exact ⟨_, appendText_of_unmappable hstrict hbad, .faulted .badChar (hst.trans hstrict)⟩

theorem exec_digit_ends (st : Bool) (s : State) :
    ∃ t, exec (.digit st) s = .next t ∧ CommandEnds (.digit st) s t := by
  by_cases hbad : (st && !numericMappable s.char) = true
  · exact ⟨_, (if_pos hbad).trans (raise_beginCommand ..), .faulted .badChar (Bool.and_eq_true_iff.mp hbad).1⟩
  · exact ⟨_, if_neg hbad, .result _ nofun⟩

/-- The parser faults in the ways a command that parses can. -/
theorem canFault_of_parseAddress {i : Instr} {t : List Byte} {c : FaultCode}
    (hi : (∃ st, i = .parse st) ∨ ∃ st su rc, i = .batch st su rc)
    (h : parseAddress (strictOf i) t = .error c) : CanFault i c := by
  obtain ⟨-, hr⟩ | ⟨v, -, hst, -, hr⟩ | ⟨v, -, -, hr⟩ := parseAddress_cases h
  · cases hr
    exact hi
  · cases hr
    exact hst
  · cases hr

theorem exec_parse_ends (st : Bool) (s : State) :
    ∃ t, exec (.parse st) s = .next t ∧ CommandEnds (.parse st) s t := by
  cases hparse : parseAddress st s.atxt with
  | error c =>
    exact ⟨_, exec_parse_of_error hparse, .faulted c (canFault_of_parseAddress (.inl ⟨st, rfl⟩) hparse)⟩
  | ok x => exact ⟨_, exec_parse_of_ok hparse, .parsed _ x.1 x.2 st rfl⟩

/-- The orchestrator's loop faults in the ways BATCH can. -/
theorem canFault_of_orchestrateFrom {p : Config.Params} {st su : Bool} {rc : BitVec 8} {n : Nat} {c : FaultCode}
    {k : Nat} (q : List Message) {j idx : Nat} {words : List Word}
    (h : (orchestrateFrom p st n j idx words q).2 = some (c, k)) : CanFault (.batch st su rc) c := by
  induction q generalizing j idx words with
  | nil => simp [orchestrateFrom] at h
  | cons m q ih =>
    rw [orchestrateFrom] at h
    obtain ⟨e, he, hm⟩ | ⟨x, -, hst, -, hm⟩ | ⟨x, -, -, hm⟩ :=
      encodeMessage_cases (p := p) (strict := st) (rc := n) (idx := idx) (m := m) rfl
    · obtain ⟨rfl, -⟩ : e = c ∧ j = k := by simpa [hm] using h
      exact canFault_of_parseAddress (.inr ⟨st, su, rc, rfl⟩) he
    · obtain ⟨rfl, -⟩ : .badChar = c ∧ j = k := by simpa [hm] using h
      exact hst
    · simp only [hm] at h
      split at h
      case isTrue =>
        obtain ⟨rfl, -⟩ : .overflow = c ∧ j = k := by simpa using h
        exact .inr ⟨st, su, rc, rfl⟩
      case isFalse => exact ih h

/-- What the orchestrator answers: words within OUT_CAP, and a fault BATCH can raise, at a message of the queue or
(EMPTY_LIST) at index 0. -/
theorem orchestrate_bounds (p : Config.Params) (st su : Bool) (rc : BitVec 8) (q : List Message) :
    (orchestrate p st rc.toNat q).1.length ≤ p.outCap ∧
      ∀ c j, (orchestrate p st rc.toNat q).2 = some (c, j) →
        CanFault (.batch st su rc) c ∧ (j = 0 ∨ j < q.length) := by
  by_cases hempty : (st && q.isEmpty) = true
  · rw [orchestrate, if_pos hempty]
    refine ⟨Nat.zero_le _, fun c j h => ?_⟩
    obtain ⟨rfl, rfl⟩ : .emptyList = c ∧ 0 = j := by simpa using h
    exact ⟨(Bool.and_eq_true_iff.mp hempty).1, .inl rfl⟩
  · rw [orchestrate, if_neg hempty]
    obtain ⟨hfit, hindex⟩ := orchestrateFrom_bounds p st rc.toNat q 0 0 [] (Nat.zero_le _)
    refine ⟨hfit, fun c j h => ⟨canFault_of_orchestrateFrom q h, .inr ?_⟩⟩
    have := hindex c j h
    omega

theorem exec_batch_ends (st su : Bool) (rc : BitVec 8) (s : State) :
    ∃ t, exec (.batch st su rc) s = .next t ∧ CommandEnds (.batch st su rc) s t := by
  obtain ⟨hfit, hfault⟩ := orchestrate_bounds s.params st su rc s.msgq
  rcases h : orchestrate s.params st rc.toNat s.msgq with ⟨ws, _ | ⟨c, j⟩⟩
  · rw [h] at hfit
    exact ⟨_, exec_batch_of_none h, latchedWord_batch st su rc ▸ .batched _ ws st su rc rfl hfit⟩
  · rw [h] at hfit hfault
    obtain ⟨hc, hj⟩ := hfault c j rfl
    have hx : BitVec.ofNat 16 j = 0#16 ∨ (BitVec.ofNat 16 j).toNat < s.msgq.length :=
      hj.imp (congrArg _) fun hlt => (Nat.mod_le j (2 ^ 16)).trans_lt hlt
    exact ⟨_, exec_batch_of_some h, latchedWord_batch st su rc ▸ .batchFaulted c _ ws st su rc rfl hc hx hfit⟩

/-- Every command completes, in one of those ways. -/
theorem exec_command_ends {i : Instr} (hi : i.commandWord.isSome = true) (s : State) :
    ∃ t, exec i s = .next t ∧ CommandEnds i s t := by
  cases i with
  | nop => exact ⟨_, complete_beginCommand .nop s, .result s.res fun _ => rfl⟩
  | crc | par | cw | aoff | tlen | nlen => exact ⟨_, completeWith_beginCommand _ _ s, .result _ nofun⟩
  | digit st => exact exec_digit_ends st s
  | packa st off => exact appendText_ends (.inl ⟨st, off, rfl⟩) rfl _ _ s
  | packn st off => exact appendText_ends (.inr (.inl ⟨st, off, rfl⟩)) rfl _ _ s
  | parse st => exact exec_parse_ends st s
  | etx n st => exact appendText_ends (.inr (.inr ⟨n, st, rfl⟩)) rfl _ _ s
  | batch st su rc => exact exec_batch_ends st su rc s
  | ser su => exact ⟨_, exec_ser su s, .serialized _ su rfl⟩
  | clr => exact ⟨_, (nopAndClrEffects s).2, .cleared rfl⟩
  | cmd | wr | rd | loada | loadm | push | mclr | readw | readb | reset => exact absurd hi Bool.false_ne_true

/-! ### Host transactions -/

/-- The states a host transaction can end in. -/
inductive HostEnds (i : Instr) (s : State) : State → Prop where
  | refused (c : FaultCode) (hi : Refused i s) (hc : c = .textLen ∨ c = .overflow ∨ c = .badReg) :
      HostEnds i s (refusedWith c.code.toNat s)
  | wrote (u : State) (reg : BitVec 4) (v : Word) (hi : i = .wr reg v) (hu : writeReg reg v s = some u) :
      HostEnds i s { u with reply := .nothing }
  | loadedAddress (b : List Byte) (hi : i = .loada b) (hfit : b.length ≤ 32) :
      HostEnds i s { s with atxt := b, reply := .nothing }
  | loadedMessage (b : List Byte) (hi : i = .loadm b) (hfit : b.length ≤ 65535) :
      HostEnds i s { s with mtxt := b, reply := .nothing }
  | pushed (m : Message) (hi : i = .push m.isNumeric m.addressText m.messageText) (hm : m.Fits)
      (hq : s.msgq.length ≠ 256) : HostEnds i s { s with msgq := s.msgq ++ [m], reply := .nothing }
  | emptied (hi : i = .mclr) : HostEnds i s { s with msgq := [], reply := .nothing }
  | read (r : Reply) : HostEnds i s { s with reply := r }
  | reset (hi : i = .reset) : HostEnds i s { State.reset with port := s.port, params := s.params }

theorem exec_wr_ends (reg : BitVec 4) (v : Word) (s : State) :
    ∃ t, exec (.wr reg v) s = .next t ∧ HostEnds (.wr reg v) s t := by
  cases hw : writeReg reg v s with
  | none =>
    have hreg : ¬ reg.toNat ≤ 6 := by simpa [hw] using writeReg_isSome reg v s
    exact ⟨_, (registerWriteStoresOrIsRefused s reg v).2 (by omega),
      .refused .badReg (show 7 ≤ reg.toNat by omega) (by decide)⟩
  | some u =>
    have hexec : exec (.wr reg v) s = answer .nothing u := by rw [exec, execWr, hw]
    exact ⟨_, hexec, .wrote u reg v rfl hw⟩

theorem exec_loada_ends (b : List Byte) (s : State) :
    ∃ t, exec (.loada b) s = .next t ∧ HostEnds (.loada b) s t := by
  obtain ⟨hfits, hlong, -, -⟩ := loadReplacesTheTextBuffer s b
  by_cases h : b.length ≤ 32
  · exact ⟨_, hfits h, .loadedAddress b rfl h⟩
  · exact ⟨_, hlong (by omega), .refused .textLen (show 32 < b.length by omega) (by decide)⟩

theorem exec_loadm_ends (b : List Byte) (s : State) :
    ∃ t, exec (.loadm b) s = .next t ∧ HostEnds (.loadm b) s t := by
  obtain ⟨-, -, hfits, hlong⟩ := loadReplacesTheTextBuffer s b
  by_cases h : b.length ≤ 65535
  · exact ⟨_, hfits h, .loadedMessage b rfl h⟩
  · exact ⟨_, hlong (by omega), .refused .textLen (show 65535 < b.length by omega) (by decide)⟩

theorem exec_push_ends (n : Bool) (at' mt : List Byte) (s : State) :
    ∃ t, exec (.push n at' mt) s = .next t ∧ HostEnds (.push n at' mt) s t := by
  obtain ⟨happends, hlong, hfull⟩ := pushAppendsOneMessage s n at' mt
  by_cases hfits : at'.length ≤ 32 ∧ mt.length ≤ 65535
  · by_cases hq : s.msgq.length = 256
    · exact ⟨_, hfull hfits.1 hfits.2 hq, .refused .overflow (.inr (.inr hq)) (by decide)⟩
    · exact ⟨_, happends hfits.1 hfits.2 hq, .pushed ⟨n, at', mt⟩ rfl hfits hq⟩
  · have htext : 32 < at'.length ∨ 65535 < mt.length := by omega
    exact ⟨_, hlong htext, .refused .textLen (htext.imp_right .inl) (by decide)⟩

/-- Every host transaction completes, in one of those ways. -/
theorem exec_host_ends {i : Instr} (hi : isCommand i = false) (s : State) :
    ∃ t, exec i s = .next t ∧ HostEnds i s t := by
  cases i with
  | wr reg v => exact exec_wr_ends reg v s
  | rd | readw | readb => exact ⟨_, rfl, .read _⟩
  | loada b => exact exec_loada_ends b s
  | loadm b => exact exec_loadm_ends b s
  | push n at' mt => exact exec_push_ends n at' mt s
  | mclr => exact ⟨_, rfl, .emptied rfl⟩
  | reset => exact ⟨_, rfl, .reset rfl⟩
  | cmd | nop | crc | par | cw | digit | packa | packn | aoff | parse | tlen | nlen | etx | batch | ser | clr =>
    exact absurd hi (by simp [isCommand, Instr.commandWord, encode])

end Sys2Proof.Machine
end

section
/-! Proofs about the whole machine (10_state.md R21, R30, R31, R37 to R41, 60_exceptions.md R281, R304,
70_reset_and_hazards.md R323, R332): each is read off the ways a transaction can end. -/

namespace Sys2Proof.Machine

open Sys2Proof.Claims

/-! ### Every transaction (R250, R259) -/

/-- A command word that decodes performs the command it decodes to. -/
theorem exec_cmd_of_ok {w : Word} {j : Instr} (h : decodeCommand w = .ok j) (s : State) :
    exec (.cmd w) s = exec j s := by
  have hcommand := legalCommandWordIsItsEncoding w j h
  rw [exec, execCmd, h]
  cases j with
  | cmd | wr | rd | loada | loadm | push | mclr | readw | readb | reset => simp [encode] at hcommand
  | _ => rfl

theorem exec_cmd_of_error {w : Word} {e : DecodeReject} (h : decodeCommand w = .error e) (s : State) :
    exec (.cmd w) s = .next (faultedWith w 1 0 s) := by
  rw [exec, execCmd, h]
  exact raise_latchWord .illegalOp 0#16 w s

theorem isSome_commandWord_of_decodeCommand {w : Word} {j : Instr} (h : decodeCommand w = .ok j) :
    j.commandWord.isSome = true := by
  rw [Instr.commandWord, legalCommandWordIsItsEncoding w j h]
  rfl

/-- The states a transaction can end in: the ends of the command it performs, ILLEGAL_OP for an illegal word, or
the ends of a host transaction. -/
inductive Ends (i : Instr) (s t : State) : Prop where
  | command (j : Instr) (hop : operation i = some j) (hi : isCommand i = true) (ht : CommandEnds j s t)
  | illegal (w : Word) (hop : operation i = none) (hi : isCommand i = true) (ht : t = faultedWith w 1 0 s)
  | host (hi : isCommand i = false) (ht : HostEnds i s t)

/-- A command is a CMD or is its own operation. -/
theorem isCommand_cases {i : Instr} (hi : isCommand i = true) :
    (∃ w, i = .cmd w) ∨ (i.commandWord.isSome = true ∧ operation i = some i) := by
  cases i with
  | cmd w => exact .inl ⟨w, rfl⟩
  | _ => exact .inr ⟨hi, rfl⟩

theorem exec_ends (i : Instr) (s : State) : ∃ t, exec i s = .next t ∧ Ends i s t := by
  cases hi : isCommand i
  case false =>
    obtain ⟨t, ht, hends⟩ := exec_host_ends hi s
    exact ⟨t, ht, .host hi hends⟩
  case true =>
    obtain ⟨w, rfl⟩ | ⟨hword, hop⟩ := isCommand_cases hi
    · cases hdec : decodeCommand w with
      | ok j =>
        obtain ⟨t, ht, hends⟩ := exec_command_ends (isSome_commandWord_of_decodeCommand hdec) s
        exact ⟨t, (exec_cmd_of_ok hdec s).trans ht, .command j (by rw [operation, hdec]; rfl) hi hends⟩
      | error e => exact ⟨_, exec_cmd_of_error hdec s, .illegal w (by rw [operation, hdec]; rfl) hi rfl⟩
    · obtain ⟨t, ht, hends⟩ := exec_command_ends hword s
      exact ⟨t, ht, .command i hop hi hends⟩

theorem ends_of_exec {i : Instr} {s t : State} (h : exec i s = .next t) : Ends i s t := by
  obtain ⟨u, hu, hends⟩ := exec_ends i s
  obtain rfl : u = t := Host.Outcome.next.inj (hu.symm.trans h)
  exact hends

/-- A step is idle, a transaction, or the refusal of a reserved kind. -/
theorem step_cases {s t : State} (h : step s = .next t) :
    t = s ∨ (∃ i rest, exec i { s with port := rest } = .next t) ∨
      ∃ rest, t = refusedWith 1 { s with port := rest } := by
  rcases hport : s.port with _ | ⟨r, rest⟩
  · rw [step_idle hport] at h
    exact .inl (Host.Outcome.next.inj h).symm
  · rw [step_record hport, performRecord] at h
    cases hdec : decodeRecord r with
    | ok i => exact .inr (.inl ⟨i, rest, by simpa only [hdec] using h⟩)
    | error e =>
      have hrefuse : execReservedKind { s with port := rest } = .next t := by simpa only [hdec] using h
      rw [execReservedKind, refuse_eq_refusedWith] at hrefuse
      exact .inr (.inr ⟨rest, (Host.Outcome.next.inj hrefuse).symm⟩)

/-- Settles O9: each instruction has an end, and so has the refusal of a reserved kind. -/
theorem everyTransactionCompletes : Obligations.EveryTransactionCompletes := by
  have hexec (i : Instr) (s : State) : ∃ t, exec i s = .next t :=
    (exec_ends i s).imp fun _ => And.left
  refine ⟨hexec, fun s => ?_⟩
  rcases hport : s.port with _ | ⟨r, rest⟩
  · exact ⟨s, step_idle hport⟩
  · rw [step_record hport, performRecord]
    cases decodeRecord r with
    | ok i => exact hexec i _
    | error e => exact ⟨_, refuse_eq_refusedWith .illegalOp _⟩

/-- A command ends with its word in LASTCMD. -/
theorem CommandEnds.lastcmd_eq {i : Instr} {s t : State} (h : CommandEnds i s t) : t.lastcmd = latchedWord i := by
  cases h <;> rfl

/-- Settles O8: the word is the one its command encodes to, which is the one the command latches. -/
theorem commandTransactionPerformsItsWord : Obligations.CommandTransactionPerformsItsWord := by
  refine ⟨fun s w i h => ⟨exec_cmd_of_ok h s, ?_, fun rest hport => ?_⟩, fun s w h => ?_⟩
  · obtain ⟨t, ht, hends⟩ := exec_command_ends (isSome_commandWord_of_decodeCommand h) s
    refine ⟨t, (exec_cmd_of_ok h s).trans ht, ?_⟩
    rw [hends.lastcmd_eq, latchedWord, Instr.commandWord, legalCommandWordIsItsEncoding w i h]
    rfl
  · rw [step_record hport]
    exact exec_cmd_of_ok h _
  · cases hdec : decodeCommand w with
    | ok i => exact absurd hdec (h i)
    | error e => exact exec_cmd_of_error hdec s

/-! ### What STATUS and STICKY record (R30, R31, R281) -/

/-- `t` has the record of fault `c` with FIDX `x` (R281). -/
def Recorded (s t : State) (c : FaultCode) (x : BitVec 16) : Prop :=
  t.status = statusWord c.code x ∧ t.sticky = s.sticky ||| stickyBit c

theorem recorded_faultedWith (w : Word) (c : FaultCode) (x : BitVec 16) (s : State) :
    Recorded s (faultedWith w c.code.toNat x.toNat s) c x :=
  ⟨(statusWord_eq_ofNat c.code x).symm, congrArg (s.sticky ||| ·) (stickyBit_eq_ofNat c).symm⟩

theorem recorded_refusedWith (c : FaultCode) (s : State) : Recorded s (refusedWith c.code.toNat s) c 0#16 :=
  ⟨(statusWord_eq_ofNat c.code 0#16).symm, congrArg (s.sticky ||| ·) (stickyBit_eq_ofNat c).symm⟩

/-- A command clears STATUS and keeps STICKY, or records a fault its operation can raise. -/
theorem Ends.command_record {i : Instr} {s t : State} (h : Ends i s t) (hi : isCommand i = true) :
    (t.status = 0#32 ∧ t.sticky = s.sticky) ∨
      ∃ c x, (∀ j, operation i = some j → CanFault j c) ∧ (x = 0#16 ∨ x.toNat < s.msgq.length) ∧
        Recorded s t c x := by
  cases h with
  | host hhost => exact absurd (hi.symm.trans hhost) (by decide)
  | illegal w hop _ ht =>
    exact .inr ⟨.illegalOp, 0#16, fun j hj => by simp [hop] at hj, .inl rfl,
      ht ▸ recorded_faultedWith w .illegalOp 0#16 s⟩
  | command j hop _ ht =>
    have hj {c : FaultCode} (hc : CanFault j c) : ∀ k, operation i = some k → CanFault k c :=
      fun k hk => Option.some.inj (hop.symm.trans hk) ▸ hc
    cases ht with
    | result | appended | parsed | serialized | cleared | batched => exact .inl ⟨rfl, rfl⟩
    | faulted c hc => exact .inr ⟨c, 0#16, hj hc, .inl rfl, recorded_faultedWith (latchedWord j) c 0#16 s⟩
    | batchFaulted c x ws st su rc _ hc hx _ =>
      exact .inr ⟨c, x, hj hc, hx, recorded_faultedWith (latchedWord j) c x s⟩

/-- A host transaction but RESET keeps STATUS and STICKY or is refused. -/
theorem HostEnds.record {i : Instr} {s t : State} (h : HostEnds i s t) (hi : i ≠ .reset) :
    (t.status = s.status ∧ t.sticky = s.sticky) ∨
      ∃ c : FaultCode, Refused i s ∧ (c = .textLen ∨ c = .overflow ∨ c = .badReg) ∧
        t = refusedWith c.code.toNat s := by
  cases h with
  | refused c href hc => exact .inr ⟨c, href, hc, rfl⟩
  | wrote u reg v _ hu =>
    rw [writeReg_frame hu]
    exact .inl ⟨rfl, rfl⟩
  | loadedAddress | loadedMessage | pushed | emptied | read => exact .inl ⟨rfl, rfl⟩
  | reset h => exact absurd h hi

theorem Recorded.errField_eq {s t : State} {c : FaultCode} {x : BitVec 16} (h : Recorded s t c x) :
    errField t.status = c.code := by
  rw [h.1, errField_statusWord]

theorem faultCode_code_ne_zero (c : FaultCode) : c.code ≠ 0#4 := by cases c <;> decide

/-- A record sets its own STICKY bit and clears none (R31). -/
theorem Recorded.getLsbD_sticky {s t : State} {c : FaultCode} {x : BitVec 16} (h : Recorded s t c x) (k : Nat) :
    t.sticky.getLsbD k = (s.sticky.getLsbD k || decide (k = c.code.toNat)) := by
  rw [h.2, BitVec.getLsbD_or, stickyBit_getLsbD]

/-- Any transaction but RESET keeps STICKY or adds the bit of a fault it records. -/
theorem Ends.sticky_cases {i : Instr} {s t : State} (h : Ends i s t) (hi : i ≠ .reset) :
    t.sticky = s.sticky ∨ ∃ c x, Recorded s t c x := by
  cases h with
  | command j hop hc ht =>
    exact (Ends.command_record (.command j hop hc ht) hc).imp And.right fun ⟨c, x, _, _, hrec⟩ => ⟨c, x, hrec⟩
  | illegal w hop hc ht =>
    exact (Ends.command_record (.illegal w hop hc ht) hc).imp And.right fun ⟨c, x, _, _, hrec⟩ => ⟨c, x, hrec⟩
  | host hc ht =>
    exact (ht.record hi).imp And.right fun ⟨c, _, _, heq⟩ => ⟨c, 0#16, heq ▸ recorded_refusedWith c s⟩

/-- Settles O14: a transaction keeps STICKY or adds a record's bit to it. -/
theorem onlyResetClearsStickyBits : Obligations.OnlyResetClearsStickyBits := by
  intro i s t h
  have hends := ends_of_exec h
  refine ⟨fun hi k hk => ?_, fun hi herr => ?_, fun hi => ?_⟩
  · obtain hsame | ⟨c, x, hrec⟩ := hends.sticky_cases hi
    · rwa [hsame]
    · rw [hrec.getLsbD_sticky, hk, Bool.true_or]
  · obtain ⟨hst, -⟩ | ⟨c, x, -, -, hrec⟩ := hends.command_record hi
    · exact absurd (hst ▸ rfl) herr
    · rw [hrec.errField_eq, hrec.getLsbD_sticky]
      simp
  · subst hi
    obtain rfl := Host.Outcome.next.inj h
    rfl

/-- Settles O17: of the ends with ERR not 0 only BATCH's own writes more than the record. -/
theorem faultingCommandWritesOnlyTheRecord : Obligations.FaultingCommandWritesOnlyTheRecord := by
  intro i s t h hi hbatch herr
  cases ends_of_exec h with
  | host hhost => exact absurd (hi.symm.trans hhost) (by decide)
  | illegal w _ _ ht => exact ⟨w, 1, ht, by decide, by decide⟩
  | command j hop _ ht =>
    cases ht with
    | result | appended | parsed | serialized | cleared | batched => exact absurd rfl herr
    | faulted c => exact ⟨_, _, rfl, faultCode_code_toNat c⟩
    | batchFaulted c x ws st su rc hj => exact absurd (hj ▸ hop) (hbatch st su rc)

/-- Settles O18: a refusal is for one of three reasons, and every other end keeps STATUS and STICKY. -/
theorem hostTransactionLeavesStatusOrIsRefused : Obligations.HostTransactionLeavesStatusOrIsRefused := by
  intro i s t h hi hreset
  cases ends_of_exec h with
  | command j _ hc => exact absurd (hi.symm.trans hc) (by decide)
  | illegal w _ hc => exact absurd (hi.symm.trans hc) (by decide)
  | host _ ht =>
    refine (ht.record hreset).imp_right ?_
    rintro ⟨c, -, rfl | rfl | rfl, rfl⟩
    · exact .inl rfl
    · exact .inr (.inl rfl)
    · exact .inr (.inr rfl)

/-- Settles O19: in default mode no fault of strict mode is among those the operation can raise. -/
theorem defaultModeFaults : Obligations.DefaultModeFaults := by
  intro i j s t h hi hop hdefault
  obtain ⟨hst, -⟩ | ⟨c, x, hc, -, hrec⟩ := (ends_of_exec h).command_record hi
  · exact .inl (hst ▸ rfl)
  · rw [hrec.errField_eq]
    have hcan := hc j hop
    cases c with
    | addrSyntax => exact .inr (.inl ⟨rfl, hcan⟩)
    | overflow => exact .inr (.inr ⟨rfl, by simpa [CanFault, IsAppending, or_assoc] using hcan⟩)
    | addrRange | emptyList | badChar => exact absurd (hdefault.symm.trans hcan) (by decide)
    | illegalOp | textLen | badReg => exact hcan.elim

end Sys2Proof.Machine
end

section
/-! Proofs about what stays (10_state.md R21, R30 to R41, R48, 70_reset_and_hazards.md R323): which fields a transaction
leaves, and the invariant every step keeps. -/

namespace Sys2Proof.Machine

open Sys2Proof.Claims

/-! ### Fields and their writers (R21, R37 to R41) -/

theorem Ends.params_port {i : Instr} {s t : State} (h : Ends i s t) : t.params = s.params ∧ t.port = s.port := by
  cases h with
  | command j _ _ ht => cases ht <;> exact ⟨rfl, rfl⟩
  | illegal w _ _ ht => exact ht ▸ ⟨rfl, rfl⟩
  | host _ ht =>
    cases ht with
    | wrote u reg v _ hu =>
      rw [writeReg_frame hu]
      exact ⟨rfl, rfl⟩
    | _ => exact ⟨rfl, rfl⟩

/-- Settles O13: no end writes the parameters, and neither does the refusal of a reserved kind. -/
theorem noTransactionChangesTheParameters : Obligations.NoTransactionChangesTheParameters := by
  refine ⟨fun i s t h => (ends_of_exec h).params_port.1, fun s t h => ?_⟩
  obtain rfl | ⟨i, rest, hexec⟩ | ⟨rest, rfl⟩ := step_cases h
  · rfl
  · exact (ends_of_exec hexec).params_port.1
  · rfl

/-- The operand registers have WR as their writer, and ADDR and FC also PARSE. -/
theorem Ends.operands {i : Instr} {s t : State} (h : Ends i s t) (hreset : i ≠ .reset)
    (hwr : ∀ r v, i ≠ .wr r v) :
    t.data = s.data ∧ t.px = s.px ∧ t.ridx = s.ridx ∧ t.nch = s.nch ∧ t.char = s.char ∧
      ((∀ st, operation i ≠ some (.parse st)) → t.addr = s.addr ∧ t.fc = s.fc) := by
  cases h with
  | command j hop _ ht =>
    cases ht with
    | parsed v a fc st hj => exact ⟨rfl, rfl, rfl, rfl, rfl, fun hparse => absurd (hj ▸ hop) (hparse st)⟩
    | _ => exact ⟨rfl, rfl, rfl, rfl, rfl, fun _ => ⟨rfl, rfl⟩⟩
  | illegal w _ _ ht => exact ht ▸ ⟨rfl, rfl, rfl, rfl, rfl, fun _ => ⟨rfl, rfl⟩⟩
  | host _ ht =>
    cases ht with
    | wrote u reg v hi => exact absurd hi (hwr reg v)
    | reset hi => exact absurd hi hreset
    | _ => exact ⟨rfl, rfl, rfl, rfl, rfl, fun _ => ⟨rfl, rfl⟩⟩

theorem HostEnds.res_lastcmd {i : Instr} {s t : State} (h : HostEnds i s t) (hreset : i ≠ .reset) :
    t.res = s.res ∧ t.lastcmd = s.lastcmd := by
  cases h with
  | wrote u reg v _ hu =>
    rw [writeReg_frame hu]
    exact ⟨rfl, rfl⟩
  | reset hi => exact absurd hi hreset
  | _ => exact ⟨rfl, rfl⟩

/-- A transaction that is no command has a host transaction's end. -/
theorem Ends.host_of_not_command {i : Instr} {s t : State} (h : Ends i s t) (hi : isCommand i = false) :
    HostEnds i s t := by
  cases h with
  | command j _ hc => exact absurd (hi.symm.trans hc) (by decide)
  | illegal w _ hc => exact absurd (hi.symm.trans hc) (by decide)
  | host _ ht => exact ht

/-- A transaction does what its operation does. -/
theorem exec_eq_of_operation {i j : Instr} (h : operation i = some j) (s : State) : exec i s = exec j s := by
  cases i with
  | cmd w =>
    cases hdec : decodeCommand w with
    | ok k =>
      obtain rfl : k = j := by simpa [operation, hdec, Except.toOption] using h
      exact exec_cmd_of_ok hdec s
    | error e => simp [operation, hdec, Except.toOption] at h
  | _ => rw [Option.some.inj h]

/-- Settles O15: the writers of each register, and the records of STATUS and STICKY. -/
theorem registersChangeOnlyByTheirWriters : Obligations.RegistersChangeOnlyByTheirWriters := by
  intro i s t h hreset
  have hends := ends_of_exec h
  refine ⟨hends.operands hreset, fun hi => (hends.host_of_not_command hi).res_lastcmd hreset, fun hop => ?_,
    fun hi href => ?_, fun hi herr => ?_⟩
  · rw [exec_eq_of_operation hop, (nopAndClrEffects s).1] at h
    obtain rfl := Host.Outcome.next.inj h
    rfl
  · exact ((hends.host_of_not_command hi).record hreset).resolve_right fun ⟨_, h, _⟩ => href h
  · obtain ⟨-, hsticky⟩ | ⟨c, x, -, -, hrec⟩ := hends.command_record hi
    · exact hsticky
    · exact absurd (hrec.errField_eq.symm.trans herr) (faultCode_code_ne_zero c)

theorem CommandEnds.inputs {i : Instr} {s t : State} (h : CommandEnds i s t) :
    t.atxt = s.atxt ∧ t.mtxt = s.mtxt ∧ t.msgq = s.msgq := by
  cases h <;> exact ⟨rfl, rfl, rfl⟩

/-- What a command other than BATCH and CLR does to the outputs: OUTW grows at its end by an append, OUTB is SER's. -/
theorem CommandEnds.outputs {i : Instr} {s t : State} (h : CommandEnds i s t)
    (hbatch : ∀ st su rc, i ≠ .batch st su rc) (hclr : i ≠ .clr) :
    s.outw <+: t.outw ∧ (¬ IsAppending i → t.outw = s.outw) ∧ ((∀ su, i ≠ .ser su) → t.outb = s.outb) := by
  cases h with
  | appended v ws hi => exact ⟨⟨ws, rfl⟩, fun hnot => absurd hi hnot, fun _ => rfl⟩
  | serialized v su hi => exact ⟨⟨[], List.append_nil _⟩, fun _ => rfl, fun hser => absurd hi (hser su)⟩
  | cleared hi => exact absurd hi hclr
  | batched v ws st su rc hi => exact absurd hi (hbatch st su rc)
  | batchFaulted c x ws st su rc hi => exact absurd hi (hbatch st su rc)
  | result | parsed | faulted => exact ⟨⟨[], List.append_nil _⟩, fun _ => rfl, fun _ => rfl⟩

theorem HostEnds.buffers {i : Instr} {s t : State} (h : HostEnds i s t) (hreset : i ≠ .reset) :
    ((∀ b, i ≠ .loada b) → t.atxt = s.atxt) ∧ ((∀ b, i ≠ .loadm b) → t.mtxt = s.mtxt) ∧
      ((∀ n a m, i ≠ .push n a m) → i ≠ .mclr → t.msgq = s.msgq) ∧ t.outw = s.outw ∧ t.outb = s.outb := by
  cases h with
  | wrote u reg v _ hu =>
    rw [writeReg_frame hu]
    exact ⟨fun _ => rfl, fun _ => rfl, fun _ _ => rfl, rfl, rfl⟩
  | loadedAddress b hi => exact ⟨fun h => absurd hi (h b), fun _ => rfl, fun _ _ => rfl, rfl, rfl⟩
  | loadedMessage b hi => exact ⟨fun _ => rfl, fun h => absurd hi (h b), fun _ _ => rfl, rfl, rfl⟩
  | pushed m hi => exact ⟨fun _ => rfl, fun _ => rfl, fun h => absurd hi (h _ _ _), rfl, rfl⟩
  | emptied hi => exact ⟨fun _ => rfl, fun _ => rfl, fun _ h => absurd hi h, rfl, rfl⟩
  | reset hi => exact absurd hi hreset
  | refused | read => exact ⟨fun _ => rfl, fun _ => rfl, fun _ _ => rfl, rfl, rfl⟩

/-- Settles O16: the writers of each buffer. -/
theorem buffersChangeOnlyByTheirWriters : Obligations.BuffersChangeOnlyByTheirWriters := by
  intro i s t h
  have hends := ends_of_exec h
  refine ⟨hends.params_port.2, fun hreset => ?_⟩
  cases hends with
  | command j hop _ ht =>
    obtain ⟨hatxt, hmtxt, hmsgq⟩ := ht.inputs
    refine ⟨fun _ => hatxt, fun _ => hmtxt, fun _ _ => hmsgq, fun hbatch hclr => ?_⟩
    rw [hop] at hbatch hclr ⊢
    obtain ⟨hgrows, hkept, hbytes⟩ := ht.outputs (fun st su rc hj => hbatch st su rc (congrArg some hj))
      fun hj => hclr (congrArg some hj)
    refine ⟨hgrows, fun hpacka hpackn hetx => hkept ?_, fun hser => hbytes fun su hj => hser su (congrArg some hj)⟩
    rintro (⟨st, off, hj⟩ | ⟨st, off, hj⟩ | ⟨n, st, hj⟩)
    · exact hpacka st off (congrArg some hj)
    · exact hpackn st off (congrArg some hj)
    · exact hetx n st (congrArg some hj)
  | illegal w _ _ ht =>
    exact ht ▸ ⟨fun _ => rfl, fun _ => rfl, fun _ _ => rfl,
      fun _ _ => ⟨⟨[], List.append_nil _⟩, fun _ _ _ => rfl, fun _ => rfl⟩⟩
  | host _ ht =>
    obtain ⟨hatxt, hmtxt, hmsgq, houtw, houtb⟩ := ht.buffers hreset
    exact ⟨hatxt, hmtxt, hmsgq,
      fun _ _ => ⟨⟨[], by rw [houtw, List.append_nil]⟩, fun _ _ _ => houtw, fun _ => houtb⟩⟩

end Sys2Proof.Machine
end

section
/-! Proofs about the invariant (00_scope.md R11, 10_state.md R30, R31, R37 to R41): every end of a transaction keeps it,
so it holds in every run. -/

namespace Sys2Proof.Machine

open Sys2Proof.Claims

/-! ### STATUS and STICKY -/

/-- STATUS's reserved bits are 0 in every record of a message index (R30). -/
theorem statusWord_reserved {err : BitVec 4} {fidx : BitVec 16} : statusWord err fidx &&& 0xFF0000F0#32 = 0#32 := by
  refine BitVec.eq_of_getLsbD_eq fun i hi => ?_
  interval_cases i <;> simp [statusWord]

/-- STICKY has no bit for code 0 and none above 8 (R31). -/
theorem stickyBit_reserved (c : FaultCode) : stickyBit c &&& 0xFFFFFE01#32 = 0#32 := by
  cases c <;> decide

/-- A fault record keeps STATUS and STICKY legal. -/
theorem Recorded.legal {s t : State} {c : FaultCode} {x : BitVec 16} (h : Recorded s t c x) (hs : s.StickyLegal)
    (hx : x.toNat < Config.maxMsgs) : t.StatusLegal ∧ t.StickyLegal := by
  have herr := h.errField_eq
  refine ⟨⟨?_, herr ▸ (faultCode_code_toNat c).2, ?_⟩, ?_, fun _ => ?_⟩
  · rw [h.1, statusWord_reserved]
  · rwa [h.1, fidxField_statusWord]
  · rw [h.2, BitVec.and_or_distrib_right, hs.1, stickyBit_reserved, BitVec.or_zero]
  · rw [herr, h.getLsbD_sticky]
    simp

theorem legal_of_cleared {s t : State} (h : t.status = 0#32 ∧ t.sticky = s.sticky) (hs : s.StickyLegal) :
    t.StatusLegal ∧ t.StickyLegal := by
  obtain ⟨hstatus, hsticky⟩ := h
  rw [State.StatusLegal, State.StickyLegal, hstatus, hsticky]
  exact ⟨by decide, hs.1, fun hne => absurd rfl hne⟩

/-! ### Buffers -/

theorem CommandEnds.buffersFit {i : Instr} {s t : State} (h : CommandEnds i s t) (hs : s.BuffersFit) :
    t.BuffersFit := by
  obtain ⟨hatxt, hmtxt, hcount, hmsgs, houtw, houtb, hgroups⟩ := hs
  have hbytes (ws : List Word) (su : Bool) (hfit : ws.length ≤ s.params.outCap) :
      (serialize ws su).length ≤ 4 * s.params.outCap ∧ (serialize ws su).length % 4 = 0 := by
    rw [serialize_length]
    omega
  cases h with
  | result | parsed | faulted => exact ⟨hatxt, hmtxt, hcount, hmsgs, houtw, houtb, hgroups⟩
  | appended v ws _ hfit => exact ⟨hatxt, hmtxt, hcount, hmsgs, List.length_append ▸ hfit, houtb, hgroups⟩
  | serialized v su => exact ⟨hatxt, hmtxt, hcount, hmsgs, houtw, hbytes s.outw su houtw⟩
  | cleared => exact ⟨hatxt, hmtxt, hcount, hmsgs, Nat.zero_le _, Nat.zero_le _, rfl⟩
  | batched v ws st su rc _ hfit => exact ⟨hatxt, hmtxt, hcount, hmsgs, hfit, hbytes ws su hfit⟩
  | batchFaulted c x ws st su rc _ _ _ hfit => exact ⟨hatxt, hmtxt, hcount, hmsgs, hfit, hbytes ws su hfit⟩

theorem HostEnds.buffersFit {i : Instr} {s t : State} (h : HostEnds i s t) (hs : s.BuffersFit) : t.BuffersFit := by
  obtain ⟨hatxt, hmtxt, hcount, hmsgs, hout⟩ := hs
  cases h with
  | refused | read => exact ⟨hatxt, hmtxt, hcount, hmsgs, hout⟩
  | wrote u reg v _ hu =>
    rw [writeReg_frame hu]
    exact ⟨hatxt, hmtxt, hcount, hmsgs, hout⟩
  | loadedAddress b _ hfit => exact ⟨hfit, hmtxt, hcount, hmsgs, hout⟩
  | loadedMessage b _ hfit => exact ⟨hatxt, hfit, hcount, hmsgs, hout⟩
  | pushed m _ hm hq =>
    have hroom : (s.msgq ++ [m]).length ≤ 256 := by
      rw [List.length_append, List.length_singleton]
      exact Nat.lt_of_le_of_ne hcount hq
    exact ⟨hatxt, hmtxt, hroom, List.forall_mem_append.mpr ⟨hmsgs, List.forall_mem_singleton.mpr hm⟩, hout⟩
  | emptied => exact ⟨hatxt, hmtxt, Nat.zero_le _, nofun, hout⟩
  | reset => exact ⟨Nat.zero_le _, Nat.zero_le _, Nat.zero_le _, nofun, Nat.zero_le _, Nat.zero_le _, rfl⟩

/-! ### The step and the runs -/

/-- A refusal keeps the invariant, for any of the reasons. -/
theorem inv_refusedWith (c : FaultCode) {s : State} (hs : s.Inv) : (refusedWith c.code.toNat s).Inv := by
  obtain ⟨hparams, hbuffers, -, hsticky⟩ := hs
  exact ⟨hparams, hbuffers, (recorded_refusedWith c s).legal hsticky (by decide)⟩

/-- The reset state has the invariant, built with any legal parameters. -/
theorem inv_reset {p : Config.Params} (hp : p.Valid) (port : List HostRecord) :
    State.Inv { State.reset with port := port, params := p } :=
  ⟨hp, ⟨Nat.zero_le _, Nat.zero_le _, Nat.zero_le _, nofun, Nat.zero_le _, Nat.zero_le _, rfl⟩,
    (by decide : State.reset.StatusLegal), (by decide : State.reset.StickyLegal)⟩

theorem HostEnds.inv {i : Instr} {s t : State} (h : HostEnds i s t) (hs : s.Inv) : t.Inv := by
  obtain ⟨hparams, hbuffers, hstatus, hsticky⟩ := hs
  have hfit := h.buffersFit hbuffers
  cases h with
  | refused c => exact inv_refusedWith c ⟨hparams, hbuffers, hstatus, hsticky⟩
  | wrote u reg v _ hu =>
    rw [writeReg_frame hu] at hfit ⊢
    exact ⟨hparams, hfit, hstatus, hsticky⟩
  | reset => exact inv_reset hparams s.port
  | loadedAddress | loadedMessage | pushed | emptied | read => exact ⟨hparams, hfit, hstatus, hsticky⟩

/-- A command's record names a message of the queue, of which there are at most 256 (R283). -/
theorem Ends.command_legal {i : Instr} {s t : State} (h : Ends i s t) (hi : isCommand i = true) (hs : s.Inv) :
    t.StatusLegal ∧ t.StickyLegal := by
  obtain ⟨-, ⟨-, -, hcount, -⟩, -, hsticky⟩ := hs
  obtain hcleared | ⟨c, x, -, hx, hrec⟩ := h.command_record hi
  · exact legal_of_cleared hcleared hsticky
  · refine hrec.legal hsticky ?_
    obtain rfl | hindex := hx
    · decide
    · exact hindex.trans_le hcount

/-- Any transaction keeps the invariant. -/
theorem Ends.inv {i : Instr} {s t : State} (h : Ends i s t) (hs : s.Inv) : t.Inv := by
  have hparams : t.params.Valid := h.params_port.1 ▸ hs.1
  cases h with
  | command j hop hi ht => exact ⟨hparams, ht.buffersFit hs.2.1, Ends.command_legal (.command j hop hi ht) hi hs⟩
  | illegal w hop hi ht =>
    exact ⟨hparams, ht ▸ hs.2.1, Ends.command_legal (.illegal w hop hi ht) hi hs⟩
  | host _ ht => exact ht.inv hs

/-- Settles O11: every buffer is empty and STATUS and STICKY are 0. -/
theorem resetHasTheInvariant : Obligations.ResetHasTheInvariant :=
  ⟨inv_reset (p := Config.defaultParams) (by decide) [], fun _ hp => inv_reset hp []⟩

/-- Settles O10: an idle step, a transaction's end and a refusal each keep it. -/
theorem everyStepKeepsTheInvariant : Obligations.EveryStepKeepsTheInvariant := by
  intro s t hs h
  obtain rfl | ⟨i, rest, hexec⟩ | ⟨rest, rfl⟩ := step_cases h
  · exact hs
  · exact (ends_of_exec hexec).inv (s := { s with port := rest }) hs
  · exact inv_refusedWith .illegalOp (s := { s with port := rest }) hs

/-- Settles O12: power-on has the invariant, every step keeps it, and the port is no part of it. -/
theorem everyReachableStateHasTheInvariant : Obligations.EveryReachableStateHasTheInvariant := by
  intro s h
  induction h with
  | powerOn p hp => exact inv_reset hp []
  | issue s rs _ ih => exact ih
  | step s t _ hstep ih => exact everyStepKeepsTheInvariant s t ih hstep

end Sys2Proof.Machine
end

section
/-! Proofs about RIDX (10_state.md R26): its value matters only in the test for 0. -/

namespace Sys2Proof.Machine

open Sys2Proof.Claims

theorem predictedLength_setRidx {s : State} {r : BitVec 32} (h : r = 0#32 ↔ s.ridx = 0#32) (num : Bool) :
    predictedLength num { s with ridx := r } = predictedLength num s := by
  have hzero : r.toNat = 0 ↔ s.ridx.toNat = 0 := by simpa [BitVec.toNat_eq] using h
  simp only [predictedLength, msgLen, hzero]

theorem encodeTransmission_of_zero_iff {p : Config.Params} {num : Bool} {r q : Nat} (h : r = 0 ↔ q = 0)
    (a : BitVec 21) (fc : BitVec 2) (t : List Byte) :
    encodeTransmission p num r a fc t = encodeTransmission p num q a fc t := by
  simp only [encodeTransmission, preamble, h]

/-- An append does not look at RIDX. -/
theorem appendText_setRidx (i : Instr) (strict num : Bool) (ws : List Word) (s : State) (r : BitVec 32) :
    ∃ t, appendText i strict num ws s = .next t ∧
      appendText i strict num ws { s with ridx := r } = .next { t with ridx := r } := by
  by_cases hok : strict = true → Mappable num s.mtxt
  · by_cases hfit : s.outw.length + ws.length ≤ s.params.outCap
    · exact ⟨_, appendText_of_fits hok hfit, appendText_of_fits (s := { s with ridx := r }) hok hfit⟩
    · have hover := Nat.lt_of_not_le hfit
      exact ⟨_, appendText_of_overflow hok hover, appendText_of_overflow (s := { s with ridx := r }) hok hover⟩
  · obtain ⟨hst, hbad⟩ := Classical.not_imp.mp hok
    exact ⟨_, appendText_of_unmappable hst hbad, appendText_of_unmappable (s := { s with ridx := r }) hst hbad⟩

/-- Settles O20: the predicted length and the transmission test RIDX for 0 alone. -/
theorem onlyZeroOfRepeatIndexMatters : Obligations.OnlyZeroOfRepeatIndexMatters := by
  rintro i s r h (rfl | rfl | ⟨n, st, rfl⟩)
  · rw [exec_tlen, exec_tlen, predictedLength_setRidx h]
    exact ⟨_, rfl, rfl⟩
  · rw [exec_nlen, exec_nlen, predictedLength_setRidx h]
    exact ⟨_, rfl, rfl⟩
  · have hzero : r.toNat = 0 ↔ s.ridx.toNat = 0 := by simpa [BitVec.toNat_eq] using h
    rw [exec_etx, exec_etx, encodeTransmission_of_zero_iff hzero]
    exact appendText_setRidx (.etx n st) st n _ s r

end Sys2Proof.Machine
end
